-- ==== Sys2Proof/Word.lean ====
section
/-! DEFINITION. The word types of the three engines: everything the spec treats as bits is a
`BitVec`; bytes are the only unit that the storage arrays hold (20_memory.md R80 to R82). -/

namespace Sys2Proof

/-- A byte: bit 7 the most significant, bit 0 the least (00_scope.md R15). -/
abbrev Byte := BitVec 8

end Sys2Proof
end

