-- ==== Sys2Proof/Syntax.lean ====
section
/-! DEFINITION. The names of the machine's modes, the operations a master can issue at the
external interfaces (`Op`), and the instruction set (`Instr`): one constructor for each of the 77
rows of spec/opcode_table.json. -/

namespace Sys2Proof

/-! ## Sequencer positions -/

/-- The thirteen states of the FlashChip sequencer, in the order that gives their snapshot codes
(10_state.md R23). -/
inductive FlashState where
  | read
  | unlock1
  | unlock2
  | autoselect
  | byteProgram
  | byteProgramError
  | eraseUnlock1
  | eraseUnlock2
  | eraseSelect
  | chipErase
  | sectorErase
  | sectorEraseTimeout
  | sectorEraseSuspend
  deriving DecidableEq, Repr

/-- The twelve values of the EEPROM's `command`, in the source's order (10_state.md R44). -/
inductive EeCommand where
  | none
  | read
  | write
  | erase
  | writeAll
  | eraseAll
  | writeEnable
  | writeDisable
  | readAddrLatched
  | readStreaming
  | busy
  | ready
  deriving DecidableEq, Repr

/-- The eight kinds of the card's `state`; `reset` carries its step, 0 to 5 (10_state.md R52). -/
inductive CardState where
  | idle
  | reset (step : Fin 6)
  | init
  | read
  | dummyRead
  | write
  | dummyWrite
  | returnWrite
  deriving DecidableEq, Repr

/-- The phases of a card block write: waiting for the token, `k` data bytes received, one of the two
CRC bytes expected (10_state.md R56). -/
inductive WritePhase where
  | waitToken
  | data (k : Nat)
  | crc (j : Fin 2)
  deriving DecidableEq, Repr

/-- The effective card kind (44_spi_card.md R271). -/
inductive Kind where
  | mmc
  | sd
  | sdhc
  deriving DecidableEq, Repr, Inhabited

/-- The configured card kind, which may be left to `resolve_auto` (10_state.md R50). -/
inductive CardKind where
  | auto
  | mmc
  | sd
  | sdhc
  deriving DecidableEq, Repr

/-- The SPI port's trigger mode (10_state.md R50). -/
inductive TriggerMode where
  | readTrigger
  | writeTrigger
  deriving DecidableEq, Repr

/-! ## Operations at the external interfaces -/

/-- What a master, the clock or the host can do to the engines, one operation at a time. The
constructors `eeFrame` and `sdFrame` are the two framed command units of 30_encoding.md R116 and R120
issued as one unit (log 11); everything else is one call of the spec's interfaces. -/
inductive Op where
  /-- FlashChip `read(addr)` (41_flash_read.md R180). -/
  | flRead (addr : Nat)
  /-- FlashChip `store(addr, data)`, with the `rmw` flag of the cycle (40_flash_store.md R140, R171). -/
  | flWrite (addr : Nat) (data : Byte) (rmw : Bool)
  /-- The direct read of `data` by the glue (41_flash_read.md R189). -/
  | flPeek (addr : Nat)
  /-- FlashChip `reset()` (70_reset_and_hazards.md R362). -/
  | flReset
  /-- One tick of the platform's clock counter (42_flash_erase_timer.md R200). -/
  | flTick
  /-- The expiry offered as a step of its own (42_flash_erase_timer.md R202, second formulation). -/
  | flExpire
  /-- Snapshot save (60_exceptions.md R346). -/
  | flSave
  /-- Snapshot load of bytes written under a major version (60_exceptions.md R347). -/
  | flLoad (major : Nat) (bytes : List Byte)
  /-- The glue clears `dirty` after it has persisted the contents (10_state.md R28, R65). -/
  | flClearDirty
  /-- `write_select(v)` (43_eeprom.md R222). -/
  | eeSelect (v : Bool)
  /-- `write_clock(v)` (43_eeprom.md R226). -/
  | eeClock (v : Bool)
  /-- `write_data(b)` (43_eeprom.md R221). -/
  | eeData (b : Bool)
  /-- `read_data()` (43_eeprom.md R247). -/
  | eeReadData
  /-- SerialEEPROM `reset()` (70_reset_and_hazards.md R365). -/
  | eeReset
  /-- A run of bits clocked in one after the other, first bit first (30_encoding.md R116). -/
  | eeFrame (bits : List Bool)
  /-- `data_write(b)` (44_spi_card.md R275). -/
  | sdWrite (b : Byte)
  /-- `data_read()` (44_spi_card.md R298). -/
  | sdRead
  /-- SpiMmcCard `reset()` (70_reset_and_hazards.md R366). -/
  | sdReset
  /-- A run of bytes written one after the other, first byte first (30_encoding.md R120). -/
  | sdFrame (bytes : List Byte)
  deriving DecidableEq, Repr

/-! ## Instructions -/

/-- One constructor for each row of spec/opcode_table.json, in the table's order. The operands are the
fields of the row's unit that the row does not fix: the address of a cycle, its data byte where the
row takes more than one, the address and data of an EEPROM frame and its ignored bits, the argument,
CRC byte and trailing bytes of a card frame. -/
inductive Instr where
  -- FLASH_CYCLE, write cycles (30_encoding.md R111)
  | flUnlockA (addr : Nat)
  | flIgnoreRead (addr : Nat) (data : Byte)
  | flUnlockB (addr : Nat)
  | flAbortUnlock1 (addr : Nat) (data : Byte)
  | flAutoselect (addr : Nat)
  | flResetLong (addr : Nat)
  | flProgramSetup (addr : Nat)
  | flEraseSetup (addr : Nat)
  | flAbortUnlock2 (addr : Nat) (data : Byte)
  | flProgramData (addr : Nat) (data : Byte)
  | flEraseUnlockA (addr : Nat)
  | flAbortEraseunlock1 (addr : Nat) (data : Byte)
  | flEraseUnlockB (addr : Nat)
  | flAbortEraseunlock2 (addr : Nat) (data : Byte)
  | flChipErase (addr : Nat)
  | flSectorErase (addr : Nat)
  | flAbortEraseselect (addr : Nat) (data : Byte)
  | flSectorAdd (addr : Nat)
  | flEraseCancel (addr : Nat) (data : Byte)
  | flEraseSuspend (addr : Nat)
  | flEraseResume (addr : Nat)
  | flIgnoreSectorerase (addr : Nat) (data : Byte)
  | flIgnoreChiperase (addr : Nat) (data : Byte)
  | flReunlock (addr : Nat)
  | flResetShort (addr : Nat)
  | flIgnoreErrorAutoselect (addr : Nat) (data : Byte)
  | flRmw (addr : Nat) (data : Byte)
  -- FLASH_CYCLE, read cycles (30_encoding.md R114) and the alias read
  | flReadArray (addr : Nat)
  | flReadId (addr : Nat)
  | flReadPstatus (addr : Nat)
  | flReadEstatus (addr : Nat)
  | flPeek (addr : Nat)
  -- FLASH_CYCLE, reset, clock, expiry, snapshot
  | flHwReset
  | flTick
  | flExpireTimeout
  | flExpireSector
  | flExpireChip
  | flSnapshotSave
  | flSnapshotLoad (major : Nat) (bytes : List Byte)
  -- EE_FRAME (30_encoding.md R117)
  | eeRead (a : BitVec 10)
  | eeWrite (a : BitVec 10) (d : BitVec 16)
  | eeErase (a : BitVec 10)
  | eeWds (x : BitVec 8)
  | eeWral (x : BitVec 8) (d : BitVec 16)
  | eeEral (x : BitVec 8)
  | eeWen (x : BitVec 8)
  | eeZeroStart
  -- EE_LINE
  | eeCsRise
  | eeCsFall
  | eeClk (v : Bool)
  | eeDi (b : Bool)
  | eeDo
  | eeDummyEdge
  | eeStreamEdge
  | eeReset
  -- SD_FRAME (30_encoding.md R122)
  | sdCmd0 (arg : BitVec 32)
  | sdCmd1 (arg : BitVec 32)
  | sdCmd8 (arg : BitVec 32) (crc : Byte) (x : BitVec 16)
  | sdCmd9 (arg : BitVec 32) (crc : Byte) (x : BitVec 16)
  | sdCmd10 (arg : BitVec 32) (crc : Byte) (x : BitVec 16)
  | sdCmd12 (arg : BitVec 32)
  | sdCmd16 (arg : BitVec 32) (crc : Byte) (x : BitVec 16)
  | sdCmd17 (arg : BitVec 32)
  | sdCmd24 (arg : BitVec 32)
  | sdAcmd41 (arg : BitVec 32)
  | sdCmd55 (arg : BitVec 32)
  | sdCmd58 (arg : BitVec 32)
  | sdUnknown (c : Byte) (arg : BitVec 32)
  -- SD_BYTE
  | sdWtoken
  | sdWdata (b : Byte)
  | sdWcrc (b : Byte)
  | sdRxReturnwrite
  | sdRxReset
  | sdRxInit
  | sdRxStream
  | sdRxIdle
  | sdReset
  deriving DecidableEq, Repr

end Sys2Proof
end

