-- ==== Sys2Proof/Config.lean ====
section
/-! DEFINITION. What an implementation fixes: the FlashChip variant and every other parameter of
00_scope.md R10, R11, R13, R14, as plain data that State carries and no step changes (log 3). The
values the spec leaves OPEN stand at reset as free values: opaque constants that nothing in Lean can
evaluate (log 5, log 21). -/

namespace Sys2Proof

/-- A FlashChip variant: the constants of 00_scope.md R10. -/
structure Variant where
  manufacturerId : Byte
  deviceId : Byte
  deviceIdAddr : Byte
  size : Nat
  sectorSize : Nat
  sectorMask : Nat
  sectorShift : Nat
  m1Addr : Nat
  m1Mask : Nat
  m2Addr : Nat
  m2Mask : Nat
  statusToggleBits : Byte
  a01Swap : Bool
  swap : Vector (BitVec 2) 4
  deriving DecidableEq, Repr

/-- Well-formedness of a variant, 00_scope.md R12, clause by clause. The two magic pairs match no
common address exactly when their addresses differ in a bit that both masks keep. "Contiguous bits from
SECTOR_SHIFT up" makes the number of sectors a power of two (log 27). -/
def Variant.wf (v : Variant) : Bool :=
  v.sectorSize == 1 <<< v.sectorShift
  && v.size == (v.size / v.sectorSize) * v.sectorSize
  && v.sectorMask == v.size - v.sectorSize
  && (v.size / v.sectorSize) &&& (v.size / v.sectorSize - 1) == 0
  && decide (v.size / v.sectorSize ≤ 64)
  && decide (0 < v.size)
  && v.m1Addr &&& v.m1Mask == v.m1Addr
  && v.m2Addr &&& v.m2Mask == v.m2Addr
  && (v.m1Addr ^^^ v.m2Addr) &&& (v.m1Mask &&& v.m2Mask) != 0

/-- The exchange of A0 and A1 (41_flash_read.md R182, default of D17). -/
def Variant.swapA0A1 : Vector (BitVec 2) 4 := #v[0, 2, 1, 3]

/-! The five variants of 00_scope.md R3 with the values of 93_implementation_defined.md G1.
PRESUMED, unsafe: the spec calls these values general knowledge, not facts about the block (log 4). -/

/-- `29F040` (G1). -/
def Variant.v29F040 : Variant where
  manufacturerId := 0x01#8
  deviceId := 0xA4#8
  deviceIdAddr := 1#8
  size := 0x80000
  sectorSize := 0x10000
  sectorMask := 0x70000
  sectorShift := 16
  m1Addr := 0x5555
  m1Mask := 0x7FFF
  m2Addr := 0x2AAA
  m2Mask := 0x7FFF
  statusToggleBits := 0x40#8
  a01Swap := false
  swap := Variant.swapA0A1

/-- `29F040B` (G1). -/
def Variant.v29F040B : Variant :=
  { Variant.v29F040 with m1Addr := 0x555, m1Mask := 0x7FF, m2Addr := 0x2AA, m2Mask := 0x7FF }

/-- `29F010` (G1). -/
def Variant.v29F010 : Variant :=
  { Variant.v29F040 with
    deviceId := 0x20#8, size := 0x20000, sectorSize := 0x4000, sectorMask := 0x1C000,
    sectorShift := 14 }

/-- `29F032B-swap` (G1). -/
def Variant.v29F032BSwap : Variant :=
  { Variant.v29F040B with
    deviceId := 0x41#8, size := 0x400000, sectorMask := 0x3F0000, statusToggleBits := 0x44#8,
    a01Swap := true }

/-- `Spansion-064` (G1): 128 sectors, so `Variant.wf` refuses it (91_not_in_source.md N6). -/
def Variant.spansion064 : Variant :=
  { Variant.v29F040 with
    deviceId := 0x7E#8, deviceIdAddr := 2#8, size := 0x800000, sectorMask := 0x7F0000,
    m1Addr := 0xAAA, m1Mask := 0xFFF, m2Addr := 0x555, m2Mask := 0xFFF,
    statusToggleBits := 0x44#8 }

/-- A byte list for each effective card kind: the type of the `RESP_*` parameters (00_scope.md R14,
92_eei_decisions.md D54). -/
structure PerKind where
  mmc : List Byte
  sd : List Byte
  sdhc : List Byte
  deriving DecidableEq, Repr

/-- Everything fixed at construction: the variant, the parameters of 00_scope.md R11, R13, R14 and the
card's configuration inputs (10_state.md R50). -/
structure Config where
  variant : Variant
  tSectorTimeout : Nat
  tSectorErase : Nat
  tChipErase : Nat
  dq6ClkBit : Nat
  progStatusExtra : BitVec 6
  snapshotMajor : Nat
  eeDoDeselected : Bool
  cardKind : CardKind
  autoKind : Kind
  cardPresent : Bool
  writeProtected : Bool
  triggerMode : TriggerMode
  imgLen : Nat
  respCmd8 : PerKind
  respCmd9 : PerKind
  respCmd10 : PerKind
  respAcmd41 : PerKind
  respCmd55 : PerKind
  respCmd58 : PerKind
  trailerRt : Vector Byte 3
  trailerWt : Vector Byte 2
  deriving DecidableEq, Repr

/-- A configuration the model constructs: a well-formed variant (00_scope.md R12) and durations of at
least one tick (00_scope.md R11). -/
def Config.wf (c : Config) : Bool :=
  c.variant.wf && decide (1 ≤ c.tSectorTimeout) && decide (1 ≤ c.tSectorErase)
    && decide (1 ≤ c.tChipErase)

/-- Free value (log 5): one less than the duration with the given number, so that each duration is at
least 1 (00_scope.md R11). -/
opaque Config.freeTicks : Nat → Nat

/-- Free value (log 5): the bit of `clk` that gives DQ6 of the program status (00_scope.md R11). -/
opaque Config.freeDq6ClkBit : Nat

/-- Free value (log 21): the snapshot writer's major version (60_exceptions.md R347). -/
opaque Config.freeSnapshotMajor : Nat

/-- Free value (log 5): the canned response of the command with this command byte for a card kind
(00_scope.md R14). -/
opaque Config.freeResp : Byte → Kind → List Byte

/-- Free value (log 5): byte `i` of the read stream's trailer in a trigger mode (44_spi_card.md R302). -/
opaque Config.freeTrailer : TriggerMode → Nat → Byte

/-- Free value (log 5): `resolve_auto`, from the bytes of the image to a kind (44_spi_card.md R271). -/
opaque Config.resolveAuto : List Byte → Kind

/-- The free response of one command for the three kinds. -/
def Config.openResp (cmdByte : Byte) : PerKind where
  mmc := Config.freeResp cmdByte .mmc
  sd := Config.freeResp cmdByte .sd
  sdhc := Config.freeResp cmdByte .sdhc

/-- The configuration of State.reset: the variant of log 4, the card inputs of log 6, the spec's own
defaults of log 23, and a free value for every other OPEN parameter (log 5, log 21). -/
def Config.atReset : Config where
  variant := Variant.v29F040
  tSectorTimeout := Config.freeTicks 0 + 1
  tSectorErase := Config.freeTicks 1 + 1
  tChipErase := Config.freeTicks 2 + 1
  dq6ClkBit := Config.freeDq6ClkBit
  progStatusExtra := 0x20#6
  snapshotMajor := Config.freeSnapshotMajor
  eeDoDeselected := false
  cardKind := .sd
  autoKind := Config.resolveAuto (List.replicate 4096 0xFF#8)
  cardPresent := true
  writeProtected := false
  triggerMode := .writeTrigger
  imgLen := 4096
  respCmd8 := Config.openResp 0x48#8
  respCmd9 := Config.openResp 0x49#8
  respCmd10 := Config.openResp 0x4A#8
  respAcmd41 := Config.openResp 0x69#8
  respCmd55 := Config.openResp 0x77#8
  respCmd58 := Config.openResp 0x7A#8
  trailerRt := #v[Config.freeTrailer .readTrigger 0, Config.freeTrailer .readTrigger 1,
    Config.freeTrailer .readTrigger 2]
  trailerWt := #v[Config.freeTrailer .writeTrigger 0, Config.freeTrailer .writeTrigger 1]

end Sys2Proof
end

