-- ==== Sys2Proof/Machine/Operands.lean ====
section
/-! DEFINITION. Operand assembly: how addresses are compared and split, how an EEPROM frame's bits and a
card frame's bytes become operands and the reverse, the card's byte address, the autoselect remap and
the fields of the snapshot. Every bit-field, bit-order and byte-order helper stands here. -/

namespace Sys2Proof.Machine

/-! ## FlashChip addresses -/

/-- `isM1(a)` (00_scope.md R17). -/
def isM1 (v : Variant) (a : Nat) : Bool := a &&& v.m1Mask == v.m1Addr

/-- `isM2(a)` (00_scope.md R17). -/
def isM2 (v : Variant) (a : Nat) : Bool := a &&& v.m2Mask == v.m2Addr

/-- `sector(a)` (00_scope.md R17, 40_flash_store.md R158). -/
def sectorOf (v : Variant) (a : Nat) : Nat := (a &&& v.sectorMask) >>> v.sectorShift

/-- The set with one sector marked: bit `i` of the bitset (40_flash_store.md R158, 10_state.md R26). -/
def markSector (pending : BitVec 64) (i : Nat) : BitVec 64 := pending ||| (1#64 <<< i)

/-- The set with one sector removed (42_flash_erase_timer.md R204). -/
def dropSector (pending : BitVec 64) (i : Nat) : BitVec 64 := pending &&& ~~~(1#64 <<< i)

/-- The smallest member of the set (42_flash_erase_timer.md R204). -/
def lowestSector (pending : BitVec 64) : Option Nat :=
  (List.range 64).find? fun i => pending.getLsbD i

/-- `a'` of 41_flash_read.md R182: bits 1:0 of the address exchanged through the table for a variant
with `A01_SWAP`, the address itself for every other. -/
def autoselectAddr (v : Variant) (a : Nat) : Nat :=
  if v.a01Swap then (a / 4) * 4 + (v.swap[a % 4]'(Nat.mod_lt a (by decide))).toNat else a

/-- `lo = a' & 0xFF` (41_flash_read.md R183). -/
def autoselectLow (v : Variant) (a : Nat) : Byte := BitVec.ofNat 8 (autoselectAddr v a)

/-! ## Serial bits, most significant first (20_memory.md R81) -/

/-- The `n` low bits of `v`, the most significant first. -/
def msbBits : Nat → Nat → List Bool
  | 0, _ => []
  | n + 1, v => v.testBit n :: msbBits n v

/-- The number whose bits are listed most significant first. -/
def bitsValue (bits : List Bool) : Nat := bits.foldl (fun acc b => 2 * acc + b.toNat) 0

/-- The word at an even byte address: high byte first (10_state.md R40). -/
def wordOfBytes (hi lo : Byte) : BitVec 16 := hi ++ lo

/-- `D[15:8]` (43_eeprom.md R241). -/
def highByte (d : BitVec 16) : Byte := d.extractLsb' 8 8

/-- `D[7:0]` (43_eeprom.md R241). -/
def lowByte (d : BitVec 16) : Byte := d.extractLsb' 0 8

/-! ## Card arguments, most significant byte first (20_memory.md R82) -/

/-- The argument assembled from `cmd_buf[2..5]` (30_encoding.md R126). -/
def argOfBytes (b2 b3 b4 b5 : Byte) : BitVec 32 :=
  (b2.zeroExtend 32 <<< 24) ||| (b3.zeroExtend 32 <<< 16) ||| (b4.zeroExtend 32 <<< 8)
    ||| b5.zeroExtend 32

/-- The four argument bytes as a master sends them (30_encoding.md R127). -/
def argBytes (arg : BitVec 32) : List Byte :=
  [arg.extractLsb' 24 8, arg.extractLsb' 16 8, arg.extractLsb' 8 8, arg.extractLsb' 0 8]

/-- The number of buffered bytes at which a command is dispatched (44_spi_card.md R279, 30_encoding.md
R122). -/
def frameNeed (cmdByte : Byte) : Nat :=
  if cmdByte = 0x48#8 ∨ cmdByte = 0x49#8 ∨ cmdByte = 0x4A#8 ∨ cmdByte = 0x50#8 then 9 else 6

/-- The effective card kind (44_spi_card.md R271). -/
def effectiveKind (c : Config) : Kind :=
  match c.cardKind with
  | .auto => c.autoKind
  | .mmc => .mmc
  | .sd => .sd
  | .sdhc => .sdhc

/-- `mmc_get_addr(arg)` (44_spi_card.md R291). -/
def mmcGetAddr (k : Kind) (arg : BitVec 32) : BitVec 64 :=
  match k with
  | .sdhc => arg.zeroExtend 64 <<< 9
  | .mmc => arg.zeroExtend 64
  | .sd => arg.zeroExtend 64

/-- The response of a kind. -/
def respFor (p : PerKind) (k : Kind) : List Byte :=
  match k with
  | .mmc => p.mmc
  | .sd => p.sd
  | .sdhc => p.sdhc

/-! ## Snapshot fields (60_exceptions.md R345) -/

/-- The code of a sequencer state (10_state.md R23). -/
def stateCode (s : FlashState) : Byte :=
  match s with
  | .read => 0#8
  | .unlock1 => 1#8
  | .unlock2 => 2#8
  | .autoselect => 3#8
  | .byteProgram => 4#8
  | .byteProgramError => 5#8
  | .eraseUnlock1 => 6#8
  | .eraseUnlock2 => 7#8
  | .eraseSelect => 8#8
  | .chipErase => 9#8
  | .sectorErase => 10#8
  | .sectorEraseTimeout => 11#8
  | .sectorEraseSuspend => 12#8

/-- The state with a code; none above 12 (60_exceptions.md R347). -/
def stateOfCode (b : Byte) : Option FlashState :=
  match b.toNat with
  | 0 => some .read
  | 1 => some .unlock1
  | 2 => some .unlock2
  | 3 => some .autoselect
  | 4 => some .byteProgram
  | 5 => some .byteProgramError
  | 6 => some .eraseUnlock1
  | 7 => some .eraseUnlock2
  | 8 => some .eraseSelect
  | 9 => some .chipErase
  | 10 => some .sectorErase
  | 11 => some .sectorEraseTimeout
  | 12 => some .sectorEraseSuspend
  | _ => none

/-- The eight bytes of the sector set: sector `i` is bit `i % 8` of byte `i / 8`. -/
def pendingBytes (p : BitVec 64) : List Byte :=
  [p.extractLsb' 0 8, p.extractLsb' 8 8, p.extractLsb' 16 8, p.extractLsb' 24 8,
   p.extractLsb' 32 8, p.extractLsb' 40 8, p.extractLsb' 48 8, p.extractLsb' 56 8]

/-- The sector set of eight bytes. -/
def pendingOfBytes (b0 b1 b2 b3 b4 b5 b6 b7 : Byte) : BitVec 64 :=
  b7 ++ b6 ++ b5 ++ b4 ++ b3 ++ b2 ++ b1 ++ b0

end Sys2Proof.Machine
end

