-- ==== Sys2Proof/WellFormed.lean ====
section
/-! DEFINITION. Which terms of `Instr` the encoding admits for a variant. An operand that only a bit
width bounds is bounded by its type; what is left is the address below SIZE (20_memory.md R84), the
address and data tests of a write cycle's row (30_encoding.md R111) and the command byte of an
unrecognised card frame (44_spi_card.md R281). Which sequencer state a row needs is not a matter of
form: that is the decoder's context. -/

namespace Sys2Proof

open Machine

/-- The twelve command bytes of 30_encoding.md R122. -/
def knownCommands : List Byte :=
  [0x40#8, 0x41#8, 0x48#8, 0x49#8, 0x4A#8, 0x4C#8, 0x50#8, 0x51#8, 0x58#8, 0x69#8, 0x77#8, 0x7A#8]

/-- The FlashChip address an instruction carries on the bus, if it carries one. -/
def Instr.flashAddr : Instr → Option Nat
  | .flUnlockA a | .flIgnoreRead a _ | .flUnlockB a | .flAbortUnlock1 a _ | .flAutoselect a
  | .flResetLong a | .flProgramSetup a | .flEraseSetup a | .flAbortUnlock2 a _ | .flProgramData a _
  | .flEraseUnlockA a | .flAbortEraseunlock1 a _ | .flEraseUnlockB a | .flAbortEraseunlock2 a _
  | .flChipErase a | .flSectorErase a | .flAbortEraseselect a _ | .flSectorAdd a
  | .flEraseCancel a _ | .flEraseSuspend a | .flEraseResume a | .flIgnoreSectorerase a _
  | .flIgnoreChiperase a _ | .flReunlock a | .flResetShort a | .flIgnoreErrorAutoselect a _
  | .flRmw a _ | .flReadArray a | .flReadId a | .flReadPstatus a | .flReadEstatus a | .flPeek a =>
    some a
  | .flHwReset | .flTick | .flExpireTimeout | .flExpireSector | .flExpireChip | .flSnapshotSave
  | .flSnapshotLoad _ _ | .eeRead _ | .eeWrite _ _ | .eeErase _ | .eeWds _ | .eeWral _ _ | .eeEral _
  | .eeWen _ | .eeZeroStart | .eeCsRise | .eeCsFall | .eeClk _ | .eeDi _ | .eeDo | .eeDummyEdge
  | .eeStreamEdge | .eeReset | .sdCmd0 _ | .sdCmd1 _ | .sdCmd8 _ _ _ | .sdCmd9 _ _ _
  | .sdCmd10 _ _ _ | .sdCmd12 _ | .sdCmd16 _ _ _ | .sdCmd17 _ | .sdCmd24 _ | .sdAcmd41 _
  | .sdCmd55 _ | .sdCmd58 _ | .sdUnknown _ _ | .sdWtoken | .sdWdata _ | .sdWcrc _
  | .sdRxReturnwrite | .sdRxReset | .sdRxInit | .sdRxStream | .sdRxIdle | .sdReset => none

/-- The address an instruction carries is one the chip has (20_memory.md R84). -/
def Instr.addrInRange (v : Variant) (i : Instr) : Bool :=
  match i.flashAddr with
  | some a => decide (a < v.size)
  | none => true

/-- The address and data tests of the instruction's row. -/
def Instr.rowTest (v : Variant) : Instr → Bool
  | .flUnlockA a => isM1 v a
  | .flIgnoreRead a b => !(isM1 v a && b == 0xAA#8)
  | .flUnlockB a => isM2 v a
  | .flAbortUnlock1 a b => !(isM2 v a && b == 0x55#8)
  | .flAutoselect a => isM1 v a
  | .flResetLong a => isM1 v a
  | .flProgramSetup a => isM1 v a
  | .flEraseSetup a => isM1 v a
  | .flAbortUnlock2 a b =>
    !(isM1 v a && (b == 0x90#8 || b == 0xF0#8 || b == 0xA0#8 || b == 0x80#8))
  | .flProgramData _ _ => true
  | .flEraseUnlockA a => isM1 v a
  | .flAbortEraseunlock1 a b => !(isM1 v a && b == 0xAA#8)
  | .flEraseUnlockB a => isM2 v a
  | .flAbortEraseunlock2 a b => !(isM2 v a && b == 0x55#8)
  | .flChipErase a => isM1 v a
  | .flSectorErase _ => true
  | .flAbortEraseselect a b => b != 0x30#8 && !(isM1 v a && b == 0x10#8)
  | .flSectorAdd _ => true
  | .flEraseCancel _ b => b != 0x30#8
  | .flEraseSuspend _ => true
  | .flEraseResume _ => true
  | .flIgnoreSectorerase _ _ => true
  | .flIgnoreChiperase _ _ => true
  | .flReunlock a => isM1 v a
  | .flResetShort _ => true
  | .flIgnoreErrorAutoselect a b => !(isM1 v a && b == 0xAA#8) && b != 0xF0#8
  | .flRmw _ _ | .flReadArray _ | .flReadId _ | .flReadPstatus _ | .flReadEstatus _ | .flPeek _
  | .flHwReset | .flTick | .flExpireTimeout | .flExpireSector | .flExpireChip | .flSnapshotSave
  | .flSnapshotLoad _ _ => true
  | .eeRead _ | .eeWrite _ _ | .eeErase _ | .eeWds _ | .eeWral _ _ | .eeEral _ | .eeWen _
  | .eeZeroStart | .eeCsRise | .eeCsFall | .eeClk _ | .eeDi _ | .eeDo | .eeDummyEdge
  | .eeStreamEdge | .eeReset => true
  | .sdUnknown c _ => !(knownCommands.contains c) && c != 0xFF#8
  | .sdCmd0 _ | .sdCmd1 _ | .sdCmd8 _ _ _ | .sdCmd9 _ _ _ | .sdCmd10 _ _ _ | .sdCmd12 _
  | .sdCmd16 _ _ _ | .sdCmd17 _ | .sdCmd24 _ | .sdAcmd41 _ | .sdCmd55 _ | .sdCmd58 _
  | .sdWtoken | .sdWdata _ | .sdWcrc _ | .sdRxReturnwrite | .sdRxReset | .sdRxInit | .sdRxStream
  | .sdRxIdle | .sdReset => true

/-- A well-formed instruction for a variant: its address is in range and its row's tests hold. -/
def Instr.wf (v : Variant) (i : Instr) : Bool := i.addrInRange v && i.rowTest v

end Sys2Proof
end

