-- ==== Sys2Proof/Decode.lean ====
section
/-! DEFINITION. The decoder, the encoder and the context they need. The hardware has no instruction
word: "The decoder is the sequencer itself" (30_encoding.md R111), so decoding takes the operation the
master issues and the sequencer positions it meets, and answers the row of spec/opcode_table.json that
the two select, or the name of the reason why no row is selected. -/

namespace Sys2Proof

open Machine

/-! ## Context -/

/-- What decoding looks at: the variant's magic addresses and the sequencer positions of the three
engines (10_state.md R21). -/
structure Ctx where
  variant : Variant
  seq : FlashState
  cs : Bool
  ck : Bool
  command : EeCommand
  card : CardState
  phase : WritePhase
  deriving DecidableEq, Repr

/-- Why an operation is no row of the table. Each is performed all the same (log 12); none is an error. -/
inductive NoRow where
  /-- `write_select` with the level the line already has (43_eeprom.md R223). Safe: nothing changes. -/
  | selectUnchanged
  /-- A run of bits that is no frame of 30_encoding.md R117: clocked in as it stands. -/
  | raggedBits
  /-- A byte for the card's command framer (44_spi_card.md R277 to R279): it may complete a command. -/
  | framerByte
  /-- A byte other than the token while the token is awaited (44_spi_card.md R307): dropped. -/
  | beforeToken
  /-- A run of bytes that is no frame of 30_encoding.md R122: written as it stands. -/
  | raggedBytes
  /-- An expiry in a state of 42_flash_erase_timer.md R206. -/
  | expiryElsewhere
  /-- The glue's own access to `dirty` (10_state.md R65). -/
  | glueOnly
  deriving DecidableEq, Repr

/-! ## FlashChip -/

/-- The map of 30_encoding.md R111: which row a write cycle belongs to, by the state, the address tests
and the data byte, in the order of 30_encoding.md R112. -/
def decodeWrite (v : Variant) (q : FlashState) (a : Nat) (b : Byte) : Instr :=
  match q with
  | .read => if isM1 v a && b == 0xAA#8 then .flUnlockA a else .flIgnoreRead a b
  | .unlock1 => if isM2 v a && b == 0x55#8 then .flUnlockB a else .flAbortUnlock1 a b
  | .unlock2 =>
    if isM1 v a then
      if b == 0x90#8 then .flAutoselect a
      else if b == 0xF0#8 then .flResetLong a
      else if b == 0xA0#8 then .flProgramSetup a
      else if b == 0x80#8 then .flEraseSetup a
      else .flAbortUnlock2 a b
    else .flAbortUnlock2 a b
  | .byteProgram => .flProgramData a b
  | .eraseUnlock1 => if isM1 v a && b == 0xAA#8 then .flEraseUnlockA a else .flAbortEraseunlock1 a b
  | .eraseUnlock2 => if isM2 v a && b == 0x55#8 then .flEraseUnlockB a else .flAbortEraseunlock2 a b
  | .eraseSelect =>
    if isM1 v a && b == 0x10#8 then .flChipErase a
    else if b == 0x30#8 then .flSectorErase a
    else .flAbortEraseselect a b
  | .sectorEraseTimeout => if b == 0x30#8 then .flSectorAdd a else .flEraseCancel a b
  | .sectorErase => if b == 0xB0#8 then .flEraseSuspend a else .flIgnoreSectorerase a b
  | .sectorEraseSuspend => if b == 0x30#8 then .flEraseResume a else .flIgnoreSectorerase a b
  | .chipErase => .flIgnoreChiperase a b
  | .byteProgramError | .autoselect =>
    if isM1 v a && b == 0xAA#8 then .flReunlock a
    else if b == 0xF0#8 then .flResetShort a
    else .flIgnoreErrorAutoselect a b

/-- Read cycles are decoded by the state alone (30_encoding.md R114, 41_flash_read.md R180). -/
def decodeRead (q : FlashState) (a : Nat) : Instr :=
  match q with
  | .read | .unlock1 | .unlock2 | .byteProgram | .eraseUnlock1 | .eraseUnlock2 | .eraseSelect =>
    .flReadArray a
  | .autoselect => .flReadId a
  | .byteProgramError => .flReadPstatus a
  | .chipErase | .sectorErase | .sectorEraseTimeout | .sectorEraseSuspend => .flReadEstatus a

/-- The three expiry rows (42_flash_erase_timer.md R203 to R205). -/
def decodeExpire (q : FlashState) : Except NoRow Instr :=
  match q with
  | .sectorEraseTimeout => .ok .flExpireTimeout
  | .sectorErase => .ok .flExpireSector
  | .chipErase => .ok .flExpireChip
  | .read | .unlock1 | .unlock2 | .autoselect | .byteProgram | .byteProgramError | .eraseUnlock1
  | .eraseUnlock2 | .eraseSelect | .sectorEraseSuspend => .error .expiryElsewhere

/-! ## SerialEEPROM -/

/-- The frames of 30_encoding.md R116 and R117: 13 bits, or 29 for WRITE and WRAL, and the lone zero
start bit that is discarded (30_encoding.md R119). -/
def decodeBits (bits : List Bool) : Except NoRow Instr :=
  let n := bitsValue bits
  if bits = [false] then .ok .eeZeroStart
  else if bits.length = 13 then
    if n / 1024 = 6 then .ok (.eeRead (BitVec.ofNat 10 n))
    else if n / 1024 = 7 then .ok (.eeErase (BitVec.ofNat 10 n))
    else if n / 256 = 16 then .ok (.eeWds (BitVec.ofNat 8 n))
    else if n / 256 = 18 then .ok (.eeEral (BitVec.ofNat 8 n))
    else if n / 256 = 19 then .ok (.eeWen (BitVec.ofNat 8 n))
    else .error .raggedBits
  else if bits.length = 29 then
    if n / 67108864 = 5 then .ok (.eeWrite (BitVec.ofNat 10 (n / 65536)) (BitVec.ofNat 16 n))
    else if n / 16777216 = 17 then .ok (.eeWral (BitVec.ofNat 8 (n / 65536)) (BitVec.ofNat 16 n))
    else .error .raggedBits
  else .error .raggedBits

/-- A clock operation: the two edges of a read stream have rows of their own (43_eeprom.md R227). -/
def decodeClock (c : Ctx) (v : Bool) : Instr :=
  if v && c.cs && !c.ck then
    if c.command = .readAddrLatched then .eeDummyEdge
    else if c.command = .readStreaming then .eeStreamEdge
    else .eeClk v
  else .eeClk v

/-! ## SpiMmcCard -/

/-- The frames of 30_encoding.md R122, by the command byte. -/
def decodeBytes (bytes : List Byte) : Except NoRow Instr :=
  match bytes with
  | [sync, c, b2, b3, b4, b5] =>
    let arg := argOfBytes b2 b3 b4 b5
    if sync != 0xFF#8 then .error .raggedBytes
    else if c = 0x40#8 then .ok (.sdCmd0 arg)
    else if c = 0x41#8 then .ok (.sdCmd1 arg)
    else if c = 0x4C#8 then .ok (.sdCmd12 arg)
    else if c = 0x51#8 then .ok (.sdCmd17 arg)
    else if c = 0x58#8 then .ok (.sdCmd24 arg)
    else if c = 0x69#8 then .ok (.sdAcmd41 arg)
    else if c = 0x77#8 then .ok (.sdCmd55 arg)
    else if c = 0x7A#8 then .ok (.sdCmd58 arg)
    else if knownCommands.contains c || c == 0xFF#8 then .error .raggedBytes
    else .ok (.sdUnknown c arg)
  | [sync, c, b2, b3, b4, b5, crc, x1, x0] =>
    let arg := argOfBytes b2 b3 b4 b5
    let x : BitVec 16 := x1 ++ x0
    if sync != 0xFF#8 then .error .raggedBytes
    else if c = 0x48#8 then .ok (.sdCmd8 arg crc x)
    else if c = 0x49#8 then .ok (.sdCmd9 arg crc x)
    else if c = 0x4A#8 then .ok (.sdCmd10 arg crc x)
    else if c = 0x50#8 then .ok (.sdCmd16 arg crc x)
    else .error .raggedBytes
  | _ => .error .raggedBytes

/-- A byte written to the card: the block-write machine takes it in `Write` and `DummyWrite`, the
command framer otherwise (44_spi_card.md R275). -/
def decodeCardByte (q : CardState) (p : WritePhase) (b : Byte) : Except NoRow Instr :=
  match q with
  | .write | .dummyWrite =>
    match p with
    | .waitToken => if b = 0xFE#8 then .ok .sdWtoken else .error .beforeToken
    | .data _ => .ok (.sdWdata b)
    | .crc _ => .ok (.sdWcrc b)
  | .idle | .reset _ | .init | .read | .dummyRead | .returnWrite => .error .framerByte

/-- `data_read()` is selected by the state (44_spi_card.md R298). -/
def decodeCardRead (q : CardState) : Instr :=
  match q with
  | .returnWrite => .sdRxReturnwrite
  | .reset _ => .sdRxReset
  | .init => .sdRxInit
  | .read | .dummyRead => .sdRxStream
  | .idle | .write | .dummyWrite => .sdRxIdle

/-! ## The decoder -/

/-- The row of spec/opcode_table.json that an operation selects in a context; total, and a reason by
name where there is none. -/
def decode (c : Ctx) (op : Op) : Except NoRow Instr :=
  match op with
  | .flRead a => .ok (decodeRead c.seq a)
  | .flWrite a b rmw => .ok (if rmw then .flRmw a b else decodeWrite c.variant c.seq a b)
  | .flPeek a => .ok (.flPeek a)
  | .flReset => .ok .flHwReset
  | .flTick => .ok .flTick
  | .flExpire => decodeExpire c.seq
  | .flSave => .ok .flSnapshotSave
  | .flLoad major bytes => .ok (.flSnapshotLoad major bytes)
  | .flClearDirty => .error .glueOnly
  | .eeSelect v =>
    if v = c.cs then .error .selectUnchanged else .ok (if v then .eeCsRise else .eeCsFall)
  | .eeClock v => .ok (decodeClock c v)
  | .eeData b => .ok (.eeDi b)
  | .eeReadData => .ok .eeDo
  | .eeReset => .ok .eeReset
  | .eeFrame bits => decodeBits bits
  | .sdWrite b => decodeCardByte c.card c.phase b
  | .sdRead => .ok (decodeCardRead c.card)
  | .sdReset => .ok .sdReset
  | .sdFrame bytes => decodeBytes bytes

/-! ## The encoder -/

/-- A card frame: sync byte, command byte, argument, and what follows (30_encoding.md R120). -/
def sdFrameBytes (cmdByte : Byte) (arg : BitVec 32) (rest : List Byte) : List Byte :=
  0xFF#8 :: cmdByte :: (argBytes arg ++ rest)

/-- The CRC byte and the two trailing bytes of a 9-byte command (30_encoding.md R120). -/
def sdTail (crc : Byte) (x : BitVec 16) : List Byte := [crc, highByte x, lowByte x]

/-- The operation that presents an instruction, from the encoding tables of 30_encoding.md R111, R117,
R120 and R122. -/
def encode (i : Instr) : Op :=
  match i with
  | .flUnlockA a => .flWrite a 0xAA#8 false
  | .flIgnoreRead a b => .flWrite a b false
  | .flUnlockB a => .flWrite a 0x55#8 false
  | .flAbortUnlock1 a b => .flWrite a b false
  | .flAutoselect a => .flWrite a 0x90#8 false
  | .flResetLong a => .flWrite a 0xF0#8 false
  | .flProgramSetup a => .flWrite a 0xA0#8 false
  | .flEraseSetup a => .flWrite a 0x80#8 false
  | .flAbortUnlock2 a b => .flWrite a b false
  | .flProgramData a b => .flWrite a b false
  | .flEraseUnlockA a => .flWrite a 0xAA#8 false
  | .flAbortEraseunlock1 a b => .flWrite a b false
  | .flEraseUnlockB a => .flWrite a 0x55#8 false
  | .flAbortEraseunlock2 a b => .flWrite a b false
  | .flChipErase a => .flWrite a 0x10#8 false
  | .flSectorErase a => .flWrite a 0x30#8 false
  | .flAbortEraseselect a b => .flWrite a b false
  | .flSectorAdd a => .flWrite a 0x30#8 false
  | .flEraseCancel a b => .flWrite a b false
  | .flEraseSuspend a => .flWrite a 0xB0#8 false
  | .flEraseResume a => .flWrite a 0x30#8 false
  | .flIgnoreSectorerase a b => .flWrite a b false
  | .flIgnoreChiperase a b => .flWrite a b false
  | .flReunlock a => .flWrite a 0xAA#8 false
  | .flResetShort a => .flWrite a 0xF0#8 false
  | .flIgnoreErrorAutoselect a b => .flWrite a b false
  | .flRmw a b => .flWrite a b true
  | .flReadArray a => .flRead a
  | .flReadId a => .flRead a
  | .flReadPstatus a => .flRead a
  | .flReadEstatus a => .flRead a
  | .flPeek a => .flPeek a
  | .flHwReset => .flReset
  | .flTick => .flTick
  | .flExpireTimeout => .flExpire
  | .flExpireSector => .flExpire
  | .flExpireChip => .flExpire
  | .flSnapshotSave => .flSave
  | .flSnapshotLoad major bytes => .flLoad major bytes
  | .eeRead a => .eeFrame (msbBits 3 6 ++ msbBits 10 a.toNat)
  | .eeWrite a d => .eeFrame (msbBits 3 5 ++ msbBits 10 a.toNat ++ msbBits 16 d.toNat)
  | .eeErase a => .eeFrame (msbBits 3 7 ++ msbBits 10 a.toNat)
  | .eeWds x => .eeFrame (msbBits 5 16 ++ msbBits 8 x.toNat)
  | .eeWral x d => .eeFrame (msbBits 5 17 ++ msbBits 8 x.toNat ++ msbBits 16 d.toNat)
  | .eeEral x => .eeFrame (msbBits 5 18 ++ msbBits 8 x.toNat)
  | .eeWen x => .eeFrame (msbBits 5 19 ++ msbBits 8 x.toNat)
  | .eeZeroStart => .eeFrame [false]
  | .eeCsRise => .eeSelect true
  | .eeCsFall => .eeSelect false
  | .eeClk v => .eeClock v
  | .eeDi b => .eeData b
  | .eeDo => .eeReadData
  | .eeDummyEdge => .eeClock true
  | .eeStreamEdge => .eeClock true
  | .eeReset => .eeReset
  | .sdCmd0 arg => .sdFrame (sdFrameBytes 0x40#8 arg [])
  | .sdCmd1 arg => .sdFrame (sdFrameBytes 0x41#8 arg [])
  | .sdCmd8 arg crc x => .sdFrame (sdFrameBytes 0x48#8 arg (sdTail crc x))
  | .sdCmd9 arg crc x => .sdFrame (sdFrameBytes 0x49#8 arg (sdTail crc x))
  | .sdCmd10 arg crc x => .sdFrame (sdFrameBytes 0x4A#8 arg (sdTail crc x))
  | .sdCmd12 arg => .sdFrame (sdFrameBytes 0x4C#8 arg [])
  | .sdCmd16 arg crc x => .sdFrame (sdFrameBytes 0x50#8 arg (sdTail crc x))
  | .sdCmd17 arg => .sdFrame (sdFrameBytes 0x51#8 arg [])
  | .sdCmd24 arg => .sdFrame (sdFrameBytes 0x58#8 arg [])
  | .sdAcmd41 arg => .sdFrame (sdFrameBytes 0x69#8 arg [])
  | .sdCmd55 arg => .sdFrame (sdFrameBytes 0x77#8 arg [])
  | .sdCmd58 arg => .sdFrame (sdFrameBytes 0x7A#8 arg [])
  | .sdUnknown c arg => .sdFrame (sdFrameBytes c arg [])
  | .sdWtoken => .sdWrite 0xFE#8
  | .sdWdata b => .sdWrite b
  | .sdWcrc b => .sdWrite b
  | .sdRxReturnwrite => .sdRead
  | .sdRxReset => .sdRead
  | .sdRxInit => .sdRead
  | .sdRxStream => .sdRead
  | .sdRxIdle => .sdRead
  | .sdReset => .sdReset

/-- The sequencer positions in which the spec's tables select the instruction's row: the "in state"
column of 30_encoding.md R111, the state column of 41_flash_read.md R180, the operation column of
the EE_LINE and SD_BYTE rows. -/
def Instr.selectedIn (c : Ctx) : Instr → Bool
  | .flUnlockA _ | .flIgnoreRead _ _ => c.seq == .read
  | .flUnlockB _ | .flAbortUnlock1 _ _ => c.seq == .unlock1
  | .flAutoselect _ | .flResetLong _ | .flProgramSetup _ | .flEraseSetup _ | .flAbortUnlock2 _ _ =>
    c.seq == .unlock2
  | .flProgramData _ _ => c.seq == .byteProgram
  | .flEraseUnlockA _ | .flAbortEraseunlock1 _ _ => c.seq == .eraseUnlock1
  | .flEraseUnlockB _ | .flAbortEraseunlock2 _ _ => c.seq == .eraseUnlock2
  | .flChipErase _ | .flSectorErase _ | .flAbortEraseselect _ _ => c.seq == .eraseSelect
  | .flSectorAdd _ | .flEraseCancel _ _ | .flExpireTimeout => c.seq == .sectorEraseTimeout
  | .flEraseSuspend _ | .flExpireSector => c.seq == .sectorErase
  | .flEraseResume _ => c.seq == .sectorEraseSuspend
  | .flIgnoreSectorerase _ b =>
    (c.seq == .sectorErase && b != 0xB0#8) || (c.seq == .sectorEraseSuspend && b != 0x30#8)
  | .flIgnoreChiperase _ _ | .flExpireChip => c.seq == .chipErase
  | .flReunlock _ | .flResetShort _ | .flIgnoreErrorAutoselect _ _ =>
    c.seq == .byteProgramError || c.seq == .autoselect
  | .flReadArray _ =>
    c.seq == .read || c.seq == .unlock1 || c.seq == .unlock2 || c.seq == .byteProgram
      || c.seq == .eraseUnlock1 || c.seq == .eraseUnlock2 || c.seq == .eraseSelect
  | .flReadId _ => c.seq == .autoselect
  | .flReadPstatus _ => c.seq == .byteProgramError
  | .flReadEstatus _ =>
    c.seq == .chipErase || c.seq == .sectorErase || c.seq == .sectorEraseTimeout
      || c.seq == .sectorEraseSuspend
  | .flRmw _ _ | .flPeek _ | .flHwReset | .flTick | .flSnapshotSave | .flSnapshotLoad _ _ => true
  | .eeRead _ | .eeWrite _ _ | .eeErase _ | .eeWds _ | .eeWral _ _ | .eeEral _ | .eeWen _
  | .eeZeroStart | .eeDi _ | .eeDo | .eeReset => true
  | .eeCsRise => c.cs == false
  | .eeCsFall => c.cs == true
  | .eeClk v =>
    !(v && c.cs && !c.ck && (c.command == .readAddrLatched || c.command == .readStreaming))
  | .eeDummyEdge => c.cs && !c.ck && c.command == .readAddrLatched
  | .eeStreamEdge => c.cs && !c.ck && c.command == .readStreaming
  | .sdCmd0 _ | .sdCmd1 _ | .sdCmd8 _ _ _ | .sdCmd9 _ _ _ | .sdCmd10 _ _ _ | .sdCmd12 _
  | .sdCmd16 _ _ _ | .sdCmd17 _ | .sdCmd24 _ | .sdAcmd41 _ | .sdCmd55 _ | .sdCmd58 _
  | .sdUnknown _ _ | .sdReset => true
  | .sdWtoken => (c.card == .write || c.card == .dummyWrite) && c.phase == .waitToken
  | .sdWdata _ =>
    (c.card == .write || c.card == .dummyWrite)
      && (match c.phase with | .data _ => true | .waitToken | .crc _ => false)
  | .sdWcrc _ =>
    (c.card == .write || c.card == .dummyWrite)
      && (match c.phase with | .crc _ => true | .waitToken | .data _ => false)
  | .sdRxReturnwrite => c.card == .returnWrite
  | .sdRxReset => match c.card with
    | .reset _ => true
    | .idle | .init | .read | .dummyRead | .write | .dummyWrite | .returnWrite => false
  | .sdRxInit => c.card == .init
  | .sdRxStream => c.card == .read || c.card == .dummyRead
  | .sdRxIdle => c.card == .idle || c.card == .write || c.card == .dummyWrite

/-! ## The table's numbers (log 14) -/

/-- Where a table row's bits are presented, and in which sequencer position. A row of a bus cycle has
only its data byte in the table's bits: its address is one that passes the row's address test. -/
inductive TableSlot where
  /-- A write cycle in a sequencer state. -/
  | flash (q : FlashState) (addr : Nat) (data : Byte)
  /-- A run of bits with chip select asserted, the clock low and an empty input register. -/
  | eeprom (bits : List Bool)
  /-- A byte that the block-write machine takes while it awaits the token. -/
  | token (b : Byte)
  /-- A run of bytes for the command framer. -/
  | frame (bytes : List Byte)
  deriving DecidableEq, Repr

/-- The low `n` bytes of a number, the first word the least significant. -/
def lsbBytes : Nat → Nat → List Byte
  | 0, _ => []
  | n + 1, w => BitVec.ofNat 8 w :: lsbBytes n (w / 256)

/-- The bytes of a card frame's number. A frame begins with the sync byte: it stands lowest where the
first word is the least significant, and highest where the row's string of bits is read as one number. -/
def frameBytes (n w : Nat) : List Byte :=
  let bytes := lsbBytes n w
  if bytes.head? = some 0xFF#8 then bytes else bytes.reverse

/-- The slot of the bits of a table row: 8 bits are the data byte of a bus cycle or the card's token, in
the table's order where several rows have the same byte; 16 and 32 bits are the 13-bit and 29-bit
EEPROM frames; 48 and 72 bits are the card frames. -/
def tableSlot (v : Variant) (nbits w : Nat) : Option TableSlot :=
  if nbits = 8 then
    let b := BitVec.ofNat 8 w
    if 256 ≤ w then none
    else if b = 0xAA#8 then some (.flash .read v.m1Addr b)
    else if b = 0x55#8 then some (.flash .unlock1 v.m2Addr b)
    else if b = 0x90#8 ∨ b = 0xF0#8 ∨ b = 0xA0#8 ∨ b = 0x80#8 then
      some (.flash .unlock2 v.m1Addr b)
    else if b = 0x10#8 then some (.flash .eraseSelect v.m1Addr b)
    else if b = 0x30#8 then some (.flash .eraseSelect 0 b)
    else if b = 0xB0#8 then some (.flash .sectorErase 0 b)
    else if b = 0xFE#8 then some (.token b)
    else some (.flash .read 0 b)
  else if nbits = 16 ∧ w < 8192 then some (.eeprom (msbBits 13 w))
  else if nbits = 32 ∧ w < 536870912 then some (.eeprom (msbBits 29 w))
  else if nbits = 48 then some (.frame (frameBytes 6 w))
  else if nbits = 72 then some (.frame (frameBytes 9 w))
  else none

/-- The operation of a slot. -/
def slotOp (p : TableSlot) : Op :=
  match p with
  | .flash _ a b => .flWrite a b false
  | .eeprom bits => .eeFrame bits
  | .token b => .sdWrite b
  | .frame bytes => .sdFrame bytes

/-- The context of a slot; the positions of the engines it does not concern are those of reset. -/
def slotCtx (v : Variant) (p : TableSlot) : Ctx where
  variant := v
  seq := match p with | .flash q _ _ => q | .eeprom _ | .token _ | .frame _ => .read
  cs := match p with | .eeprom _ => true | .flash _ _ _ | .token _ | .frame _ => false
  ck := false
  command := .none
  card := match p with | .token _ => .write | .flash _ _ _ | .eeprom _ | .frame _ => .idle
  phase := .waitToken

/-- The instruction the decoder reads from a table row's bits, with the variant of State.reset. -/
def decodeTableWord (nbits w : Nat) : Option Instr :=
  match tableSlot Config.atReset.variant nbits w with
  | none => none
  | some p => (decode (slotCtx Config.atReset.variant p) (slotOp p)).toOption

end Sys2Proof
end

