-- ==== Sys2Proof/Machine/Flags.lean ====
section
/-! DEFINITION. The bits the hardware computes for its master: the two status bytes a FlashChip read
synthesises (10_state.md R34), the program error test, and the level of the EEPROM's data output. -/

namespace Sys2Proof.Machine

/-- The sequencer states in which a read returns the erase status (41_flash_read.md R180). -/
def inErase (q : FlashState) : Bool :=
  match q with
  | .chipErase | .sectorErase | .sectorEraseTimeout | .sectorEraseSuspend => true
  | .read | .unlock1 | .unlock2 | .autoselect | .byteProgram | .byteProgramError
  | .eraseUnlock1 | .eraseUnlock2 | .eraseSelect => false

/-- DQ7 of the program status: the inverse of bit 7 of the byte written (41_flash_read.md R186). -/
def programDq7 (programByte : Byte) : Byte := (programByte ^^^ 0x80#8) &&& 0x80#8

/-- DQ6 of the program status: one bit of the clock counter (41_flash_read.md R186). -/
def programDq6 (dq6ClkBit clk : Nat) : Byte := BitVec.ofNat 8 ((clk >>> dq6ClkBit) &&& 1) <<< 6

/-- The program status byte (41_flash_read.md R186). -/
def programStatus (c : Config) (clk : Nat) (programByte : Byte) : Byte :=
  programDq7 programByte ||| programDq6 c.dq6ClkBit clk ||| c.progStatusExtra.zeroExtend 8

/-- The erase status byte: DQ3 is set unless the short timeout is still running (41_flash_read.md R187). -/
def eraseStatus (q : FlashState) (programByte : Byte) : Byte :=
  if q = .sectorEraseTimeout then programByte else programByte ||| 0x08#8

/-- What an erase-status read leaves in `program_byte`: the toggle bits flipped (41_flash_read.md R187). -/
def toggled (v : Variant) (programByte : Byte) : Byte := programByte ^^^ v.statusToggleBits

/-- The error test of a byte program: the byte asks for a 1 where the array has a 0
(40_flash_store.md R150). -/
def programFails (old byte : Byte) : Bool := old &&& byte != byte

/-- The level `read_data()` gives (43_eeprom.md R247). -/
def dataOut (deselected cs dout : Bool) (command : EeCommand) : Bool :=
  if cs = false then deselected
  else if command = .busy then false
  else if command = .ready then true
  else dout

end Sys2Proof.Machine
end

