-- ==== Sys2Proof/Machine/State.lean ====
section
/-! DEFINITION. The state of the machine as plain data: one FlashChip, one SerialEEPROM and one
SpiMmcCard with its backing image, the platform's clock counter, the configuration that no step
changes, and the model's own lists of operations to come and of values returned (10_state.md R20 to
R65; log 1, log 2, log 3, log 20). -/

namespace Sys2Proof.Machine

/-- A storage array: (address, byte) pairs in the canonical form of `Memory.wf` (Machine/Ops.lean). -/
abbrev Memory := List Host.Cell

/-- The NOR-flash command sequencer (10_state.md R22 to R30, R35). -/
structure FlashChip where
  /-- The array of SIZE bytes (R22). -/
  data : Memory
  /-- The sequencer's `state` (R23). -/
  seq : FlashState
  /-- `base_state` (R24). -/
  baseState : FlashState
  /-- `pending_erase_sectors`, bit `i` for sector `i` (R26). -/
  pending : BitVec 64
  /-- `program_byte` (R27). -/
  programByte : Byte
  /-- `last_read` (R29). -/
  lastRead : Byte
  /-- `dirty` (R28). -/
  dirty : Bool
  /-- `erase_timer`: the clock value at which it fires (R30). -/
  eraseTimer : Option Nat
  deriving DecidableEq, Repr

/-- The 3-wire serial EEPROM (10_state.md R40 to R48). -/
structure SerialEeprom where
  /-- The 2048 bytes; word `A` is the pair at `2A`, `2A + 1` (R40). -/
  cells : Memory
  /-- Chip select, clock, data in and data out lines (R41). -/
  cs : Bool
  ck : Bool
  di : Bool
  dout : Bool
  /-- The input shift register and its bit counter (R42). -/
  inSr : BitVec 29
  inCnt : Nat
  /-- The output shift register and its bit counter (R43). -/
  outSr : BitVec 16
  outCnt : Nat
  /-- The operation in progress (R44). -/
  command : EeCommand
  /-- The word address (R45). -/
  addr : BitVec 10
  /-- `write_enable_latch` (R46). -/
  wel : Bool
  deriving DecidableEq, Repr

/-- The SPI card's engine (10_state.md R51 to R57). -/
structure SpiCard where
  /-- The nine-byte command buffer and its write index (R51). -/
  cmdBuf : Vector Byte 9
  cmdIdx : Nat
  /-- The card's `state` (R52). -/
  state : CardState
  /-- `block_size` (R53). -/
  blockSize : BitVec 32
  /-- `image_cursor` (R54). -/
  imageCursor : BitVec 64
  /-- The block being read out and the number of reads since the stream began (R55). -/
  readBuffer : List Byte
  readPos : Nat
  /-- The block being written and its phase (R56). -/
  writeBuffer : List Byte
  writePhase : WritePhase
  /-- The response bytes not yet read (R57). -/
  resp : List Byte
  deriving DecidableEq, Repr

/-- A value an operation returns to its caller. -/
inductive Reply where
  /-- `read(addr)`, the alias read, `data_read()`. -/
  | byte (b : Byte)
  /-- `read_data()`. -/
  | bit (b : Bool)
  /-- The bytes of a snapshot save (60_exceptions.md R346). -/
  | snapshot (bytes : List Byte)
  /-- Whether a snapshot load succeeded; a failure is an error to the caller (60_exceptions.md R347). -/
  | loaded (ok : Bool)
  deriving DecidableEq, Repr

/-- The whole machine. -/
structure State where
  /-- Construction-time parameters; no step changes them (10_state.md, intro; log 3). -/
  cfg : Config
  /-- The platform's cycle counter (10_state.md R31). -/
  clk : Nat
  flash : FlashChip
  eeprom : SerialEeprom
  card : SpiCard
  /-- The bytes of the backing image, `cfg.imgLen` of them (44_spi_card.md R274). -/
  image : Memory
  /-- The coming answers of the backing image: an entry `true` fails the call that takes it, and with
  no entry left a call fails only out of range (44_spi_card.md R274; log 17). -/
  ioFail : List Bool
  /-- MODEL: the operations the master will issue, the next one first (log 1). -/
  inputs : List Op
  /-- MODEL: the values returned so far, the oldest first (log 2). -/
  outputs : List Reply
  deriving DecidableEq, Repr

/-- Reasons for a fault. There is none: "No engine raises a synchronous exception" (60_exceptions.md
R330; log 22). -/
inductive Fault
  deriving DecidableEq, Repr

/-- Reasons for a refusal. -/
inductive Refusal where
  /-- An instruction without a meaning yet; raised by no arm of this model. Safe. -/
  | notModelled (mnemonic : String)
  /-- A FlashChip access at or beyond SIZE: "the model refuses (gives no step to) an access with
  `addr >= SIZE`" (20_memory.md R84; log 9). Raised by every flash bus cycle. Safe. -/
  | flashAddressOutOfRange (addr : Nat)
  /-- Construction with a variant that breaks 00_scope.md R12 or a duration below one tick (R11); raised
  by `State.construct` only (log 27). Safe. -/
  | configurationRefused
  /-- Construction with an image of the wrong size (70_reset_and_hazards.md R367); raised by
  `State.construct` only (log 27). Safe. -/
  | imageWrongSize
  deriving DecidableEq, Repr

/-! ## Power-on values -/

/-- FlashChip after construction with an image (70_reset_and_hazards.md R361). -/
def FlashChip.powerOn (image : Memory) : FlashChip where
  data := image
  seq := .read
  baseState := .read
  pending := 0#64
  programByte := 0x00#8
  lastRead := 0x00#8
  dirty := false
  eraseTimer := none

/-- SerialEEPROM after construction with an image (10_state.md R48). -/
def SerialEeprom.powerOn (image : Memory) : SerialEeprom where
  cells := image
  cs := false
  ck := false
  di := false
  dout := false
  inSr := 0#29
  inCnt := 0
  outSr := 0#16
  outCnt := 0
  command := .none
  addr := 0#10
  wel := false

/-- SpiMmcCard after construction and after its `reset()` (10_state.md R60). -/
def SpiCard.powerOn : SpiCard where
  cmdBuf := Vector.replicate 9 0x00#8
  cmdIdx := 0
  state := .idle
  blockSize := 512#32
  imageCursor := 0#64
  readBuffer := []
  readPos := 0
  writeBuffer := []
  writePhase := .waitToken
  resp := []

/-- The machine after construction of the three engines with the configuration of log 3 to log 6 and
blank images (log 7): nothing listed in memory, no operation pending. -/
def State.reset : State where
  cfg := Config.atReset
  clk := 0
  flash := FlashChip.powerOn []
  eeprom := SerialEeprom.powerOn []
  card := SpiCard.powerOn
  image := []
  ioFail := []
  inputs := []
  outputs := []

end Sys2Proof.Machine
end

