-- ==== Sys2Proof/Machine/Ops.lean ====
section
/-! DEFINITION. The named operations: the storage arrays in their canonical form, the timer primitives
`arm`, `cancel` and `fill` of 00_scope.md R16, entering and leaving `ByteProgramError`, the backing
image's oracle, and the wrappers that turn an engine's next state into an outcome. -/

namespace Sys2Proof.Machine

/-! ## Storage arrays -/

/-- What an address that is not listed reads as: the erased value (log 7). -/
def Memory.unlisted : Byte := 0xFF#8

/-- One byte of an array. -/
def Memory.read : Memory → Nat → Byte
  | [], _ => Memory.unlisted
  | (k, b) :: m, a => if k = a then b else Memory.read m a

/-- One byte stored, keeping the canonical form: the addresses stay rising, and storing the value an
unlisted address reads as removes the entry. -/
def Memory.write : Memory → Nat → Byte → Memory
  | [], a, b => if b = Memory.unlisted then [] else [(a, b)]
  | (k, c) :: m, a, b =>
    if a < k then
      if b = Memory.unlisted then (k, c) :: m else (a, b) :: (k, c) :: m
    else if a = k then
      if b = Memory.unlisted then m else (a, b) :: m
    else (k, c) :: Memory.write m a b

/-- The canonical form: addresses strictly rising, no entry equal to what an unlisted address reads as. -/
def Memory.wf : Memory → Bool
  | [] => true
  | (k, b) :: m => b != Memory.unlisted && m.all (fun c => decide (k < c.1)) && Memory.wf m

/-- Every listed address is one the array has. -/
def Memory.below (m : Memory) (size : Nat) : Bool := m.all fun c => decide (c.1 < size)

/-- `n` bytes from `lo`, the lowest address first. -/
def Memory.readRange (m : Memory) : Nat → Nat → List Byte
  | _, 0 => []
  | lo, n + 1 => m.read lo :: Memory.readRange m (lo + 1) n

/-- Bytes stored from `lo` up. -/
def Memory.writeRange : Memory → Nat → List Byte → Memory
  | m, _, [] => m
  | m, lo, b :: bs => Memory.writeRange (m.write lo b) (lo + 1) bs

/-- `n` bytes from `lo` erased to 0xFF, the value of an unlisted address (00_scope.md R16 `fill`). -/
def Memory.erase (m : Memory) (lo n : Nat) : Memory :=
  m.filter fun c => !(decide (lo ≤ c.1) && decide (c.1 < lo + n))

/-- The array whose bytes from `lo` up are the given ones. -/
def Memory.ofBytes : Nat → List Byte → Memory
  | _, [] => []
  | lo, b :: bs =>
    if b = Memory.unlisted then Memory.ofBytes (lo + 1) bs else (lo, b) :: Memory.ofBytes (lo + 1) bs

/-! ## FlashChip primitives (00_scope.md R16) -/

/-- `state <- q`. -/
def FlashChip.goto (f : FlashChip) (q : FlashState) : FlashChip := { f with seq := q }

/-- `state <- base_state`: every abort and every completed command goes there (40_flash_store.md R170). -/
def FlashChip.gotoBase (f : FlashChip) : FlashChip := { f with seq := f.baseState }

/-- `arm(t)` (42_flash_erase_timer.md R201). -/
def FlashChip.arm (f : FlashChip) (clk t : Nat) : FlashChip := { f with eraseTimer := some (clk + t) }

/-- `cancel()` (42_flash_erase_timer.md R201). -/
def FlashChip.cancel (f : FlashChip) : FlashChip := { f with eraseTimer := none }

/-- `fill(lo, n)`: the bytes become 0xFF and `dirty` is set (00_scope.md R16). -/
def FlashChip.fill (f : FlashChip) (lo n : Nat) : FlashChip :=
  { f with data := f.data.erase lo n, dirty := true }

/-- Entering `ByteProgramError`, the nearest thing to taking an exception (60_exceptions.md R334): only
`state` changes; `program_byte`, the array and `base_state` are as the program left them. -/
def FlashChip.enterProgramError (f : FlashChip) : FlashChip := f.goto .byteProgramError

/-- The return to array reads by a reset command (40_flash_store.md R146, R168; 60_exceptions.md R335):
`state` and `base_state` become `Read` and nothing else changes (70_reset_and_hazards.md R364). -/
def FlashChip.returnToRead (f : FlashChip) : FlashChip := { f with seq := .read, baseState := .read }

/-! ## Outcomes -/

/-- An outcome of the machine. -/
abbrev Result := Host.Outcome State Fault Refusal

/-- The state with one more value returned to the master. -/
def State.emit (s : State) (r : Reply) : State := { s with outputs := s.outputs ++ [r] }

/-- The state with another FlashChip. -/
def State.setFlash (s : State) (f : FlashChip) : State := { s with flash := f }

/-- The state with another SerialEEPROM. -/
def State.setEeprom (s : State) (e : SerialEeprom) : State := { s with eeprom := e }

/-- The state with another card engine. -/
def State.setCard (s : State) (c : SpiCard) : State := { s with card := c }

/-- A FlashChip bus access: it has a step only for an address the chip has (20_memory.md R84). -/
def State.atFlash (s : State) (addr : Nat) (t : State) : Result :=
  if addr < s.cfg.variant.size then .next t else .refused (.flashAddressOutOfRange addr)

/-! ## The backing image (44_spi_card.md R274) -/

/-- The next answer of the image: whether the call fails whatever its range (log 17). -/
def State.nextIo (s : State) : Bool × State :=
  match s.ioFail with
  | [] => (false, s)
  | b :: rest => (b, { s with ioFail := rest })

/-- `ImgSeek(off)`: succeeds at an offset up to IMG_LEN, that of the end included, as R274 says by decision
D63, unless the call fails (log 17). -/
def State.imgSeek (s : State) (off : Nat) : Bool × State :=
  let (fails, s1) := s.nextIo
  (!fails && decide (off ≤ s.cfg.imgLen), s1)

/-- `ImgRead(off, n)`: the bytes when all `n` lie in the image, unless the call fails; a short read is a
failure. -/
def State.imgRead (s : State) (off n : Nat) : Option (List Byte) × State :=
  let (fails, s1) := s.nextIo
  (if !fails && decide (off + n ≤ s.cfg.imgLen) then some (s.image.readRange off n) else none, s1)

/-- `ImgWrite(off, bytes)`: replaces the bytes when all lie in the image, unless the call fails; the
image never grows, and a failure changes nothing. -/
def State.imgWrite (s : State) (off : Nat) (bytes : List Byte) : State :=
  let (fails, s1) := s.nextIo
  if !fails && decide (off + bytes.length ≤ s.cfg.imgLen) then
    { s1 with image := s.image.writeRange off bytes }
  else s1

/-! ## Construction (70_reset_and_hazards.md R360, R361, R367) -/

/-- The machine constructed with a configuration and three images: refused for a configuration that
breaks 00_scope.md R11 or R12 and for an image of the wrong size; `resolve_auto` is evaluated here,
once (44_spi_card.md R271; log 27). -/
def State.construct (c : Config) (flashImage eepromImage cardImage : List Byte) : Result :=
  if c.wf = false then .refused .configurationRefused
  else if flashImage.length ≠ c.variant.size ∨ eepromImage.length ≠ 2048 then
    .refused .imageWrongSize
  else
    .next
      { cfg := { c with imgLen := cardImage.length, autoKind := Config.resolveAuto cardImage }
        clk := 0
        flash := FlashChip.powerOn (Memory.ofBytes 0 flashImage)
        eeprom := SerialEeprom.powerOn (Memory.ofBytes 0 eepromImage)
        card := SpiCard.powerOn
        image := Memory.ofBytes 0 cardImage
        ioFail := []
        inputs := []
        outputs := [] }

end Sys2Proof.Machine
end

