-- ==== Sys2Proof/Machine/Card.lean ====
section
/-! DEFINITION. The SPI card engine (44_spi_card.md): the command framer and dispatcher, the twelve
commands and the unrecognised one, the block-write machine, the byte output, and the meanings of the
frame and byte rows. -/

namespace Sys2Proof.Machine

/-! ## Commands -/

/-- A response queued and the card idle (R284, R285, R286, R295 to R297). -/
def SpiCard.respond (c : SpiCard) (bytes : List Byte) : SpiCard :=
  { c with resp := bytes, state := .idle }

/-- A zero block to be read (R292, R293). -/
def SpiCard.startDummyRead (c : SpiCard) : SpiCard :=
  { c with
    readBuffer := List.replicate c.blockSize.toNat 0x00#8
    readPos := 0
    state := .dummyRead }

/-- CMD0 (R282): all engine state to its power-on value (10_state.md R60), the bytes of the command buffer
among it, then `Reset(0)`: what "full" covers is decision D64, and 70_reset_and_hazards.md R366 has CMD0
differ from `reset()` in the state alone. The list of R282 does not name the buffer (DEDUCED, unsafe:
log 29). -/
def SpiCard.cmd0 (_c : SpiCard) : SpiCard := { SpiCard.powerOn with state := .reset 0 }

/-- CMD1 (R283). -/
def SpiCard.cmd1 (c : SpiCard) : SpiCard := { c with state := .init }

/-- CMD8 (R284). -/
def SpiCard.cmd8 (c : SpiCard) (cfg : Config) : SpiCard :=
  c.respond (respFor cfg.respCmd8 (effectiveKind cfg))

/-- CMD9 (R285): the CSD, or a dummy read without a card. -/
def SpiCard.cmd9 (c : SpiCard) (cfg : Config) : SpiCard :=
  if cfg.cardPresent then c.respond (respFor cfg.respCmd9 (effectiveKind cfg)) else c.startDummyRead

/-- CMD10 (R286): the CID, or a dummy read without a card. -/
def SpiCard.cmd10 (c : SpiCard) (cfg : Config) : SpiCard :=
  if cfg.cardPresent then c.respond (respFor cfg.respCmd10 (effectiveKind cfg)) else c.startDummyRead

/-- CMD12 (R288). -/
def SpiCard.cmd12 (c : SpiCard) : SpiCard := { c with state := .idle }

/-- CMD16 (R289): the argument taken literally. -/
def SpiCard.cmd16 (c : SpiCard) (arg : BitVec 32) : SpiCard :=
  { c with blockSize := arg, state := .idle }

/-- CMD17 (R292): seek, then read one block; a missing card or a failing call gives the dummy variant. At a
target exactly at the end of the image the seek succeeds (R274, decision D63) and the read fails, unless
the block has no byte (DEDUCED, unsafe: log 28). -/
def State.cmd17 (s : State) (arg : BitVec 32) : State :=
  let a := mmcGetAddr (effectiveKind s.cfg) arg
  let c := { s.card with imageCursor := a }
  if s.cfg.cardPresent then
    let (found, s1) := s.imgSeek a.toNat
    if found then
      match s1.imgRead a.toNat c.blockSize.toNat with
      | (some bytes, s2) => s2.setCard { c with readBuffer := bytes, readPos := 0, state := .read }
      | (none, s2) => s2.setCard c.startDummyRead
    else s1.setCard c.startDummyRead
  else s.setCard c.startDummyRead

/-- CMD24 (R294): seek only; `write_protected` is not consulted. At a target exactly at the end of the image
the seek succeeds (R274, decision D63), and the block that follows changes no byte, as the dummy variant of
70_reset_and_hazards.md R386 would not (DEDUCED, unsafe: log 28). -/
def State.cmd24 (s : State) (arg : BitVec 32) : State :=
  let a := mmcGetAddr (effectiveKind s.cfg) arg
  let c := { s.card with imageCursor := a, writePhase := .waitToken }
  if s.cfg.cardPresent then
    let (found, s1) := s.imgSeek a.toNat
    s1.setCard { c with state := if found then .write else .dummyWrite }
  else s.setCard { c with state := .dummyWrite }

/-- ACMD41 (R295). -/
def SpiCard.acmd41 (c : SpiCard) (cfg : Config) : SpiCard :=
  c.respond (respFor cfg.respAcmd41 (effectiveKind cfg))

/-- CMD55 (R296). -/
def SpiCard.cmd55 (c : SpiCard) (cfg : Config) : SpiCard :=
  c.respond (respFor cfg.respCmd55 (effectiveKind cfg))

/-- CMD58 (R297). -/
def SpiCard.cmd58 (c : SpiCard) (cfg : Config) : SpiCard :=
  c.respond (respFor cfg.respCmd58 (effectiveKind cfg))

/-- An unrecognised command (R281). -/
def SpiCard.unknown (c : SpiCard) : SpiCard := { c with state := .idle }

/-! ## Framer and dispatcher -/

/-- The argument in the command buffer (30_encoding.md R126). -/
def SpiCard.arg (c : SpiCard) : BitVec 32 :=
  argOfBytes c.cmdBuf[2] c.cmdBuf[3] c.cmdBuf[4] c.cmdBuf[5]

/-- The rule selected by the command byte (R280, 30_encoding.md R122). -/
def State.runCommand (s : State) (cmdByte : Byte) (arg : BitVec 32) : State :=
  if cmdByte = 0x40#8 then s.setCard s.card.cmd0
  else if cmdByte = 0x41#8 then s.setCard s.card.cmd1
  else if cmdByte = 0x48#8 then s.setCard (s.card.cmd8 s.cfg)
  else if cmdByte = 0x49#8 then s.setCard (s.card.cmd9 s.cfg)
  else if cmdByte = 0x4A#8 then s.setCard (s.card.cmd10 s.cfg)
  else if cmdByte = 0x4C#8 then s.setCard s.card.cmd12
  else if cmdByte = 0x50#8 then s.setCard (s.card.cmd16 arg)
  else if cmdByte = 0x51#8 then s.cmd17 arg
  else if cmdByte = 0x58#8 then s.cmd24 arg
  else if cmdByte = 0x69#8 then s.setCard (s.card.acmd41 s.cfg)
  else if cmdByte = 0x77#8 then s.setCard (s.card.cmd55 s.cfg)
  else if cmdByte = 0x7A#8 then s.setCard (s.card.cmd58 s.cfg)
  else s.setCard s.card.unknown

/-- `clear_cmd()` (R272). -/
def SpiCard.clearCmd (c : SpiCard) : SpiCard := { c with cmdIdx := 0 }

/-- `dispatch()` (R280): an unread response is discarded, the command runs, the buffer is cleared. -/
def State.dispatch (s : State) : State :=
  let c := s.card
  let s1 := (s.setCard { c with resp := [] }).runCommand c.cmdBuf[1] c.arg
  s1.setCard s1.card.clearCmd

/-- A byte for the command framer: dropped before the sync byte (R277), absorbed when it repeats the sync
byte (R278), else buffered, and the command dispatched when the frame is long enough (R279). -/
def State.frameByte (s : State) (b : Byte) : State :=
  let c := s.card
  if c.cmdIdx = 0 then
    if b = 0xFF#8 then s.setCard { c with cmdBuf := c.cmdBuf.set 0 0xFF#8, cmdIdx := 1 } else s
  else if c.cmdIdx = 1 ∧ b = 0xFF#8 then s
  else
    let c1 := { c with cmdBuf := c.cmdBuf.setIfInBounds c.cmdIdx b, cmdIdx := c.cmdIdx + 1 }
    let s1 := s.setCard c1
    if 6 ≤ c1.cmdIdx ∧ frameNeed c1.cmdBuf[1] ≤ c1.cmdIdx then s1.dispatch else s1

/-! ## Block write -/

/-- `buffer[k] <- b` on a buffer held as a list; a position past its end, which no run reaches, is padded
with zeros (log 18). -/
def storeAt (l : List Byte) (k : Nat) (b : Byte) : List Byte :=
  if k < l.length then l.set k b else l ++ List.replicate (k - l.length) 0x00#8 ++ [b]

/-- The commit of a block (R309): the image is written only in `Write` with a card present, and a failure
is ignored. -/
def State.commitBlock (s : State) : State :=
  let c := s.card
  let s1 :=
    if c.state = .write ∧ s.cfg.cardPresent then
      s.imgWrite c.imageCursor.toNat (c.writeBuffer.take c.blockSize.toNat)
    else s
  s1.setCard { s1.card with writePhase := .crc 0 }

/-- A byte while the token is awaited (R307): anything else is dropped; an empty block commits at once. -/
def State.tokenByte (s : State) (b : Byte) : State :=
  if b = 0xFE#8 then
    let s1 := s.setCard { s.card with writePhase := .data 0 }
    if s.card.blockSize = 0#32 then s1.commitBlock else s1
  else s

/-- A data byte (R308). -/
def State.dataByte (s : State) (k : Nat) (b : Byte) : State :=
  let s1 :=
    s.setCard
      { s.card with writeBuffer := storeAt s.card.writeBuffer k b, writePhase := .data (k + 1) }
  if k + 1 = s.card.blockSize.toNat then s1.commitBlock else s1

/-- A CRC byte, ignored (R310). -/
def State.crcByte (s : State) (j : Fin 2) : State :=
  if j = 0 then s.setCard { s.card with writePhase := .crc 1 }
  else s.setCard { s.card with writePhase := .waitToken, state := .returnWrite }

/-- The block-write machine (R307 to R310). -/
def State.blockByte (s : State) (b : Byte) : State :=
  match s.card.writePhase with
  | .waitToken => s.tokenByte b
  | .data k => s.dataByte k b
  | .crc j => s.crcByte j

/-- `data_write(b)` (R275). -/
def State.dataWrite (s : State) (b : Byte) : State :=
  match s.card.state with
  | .write | .dummyWrite => s.blockByte b
  | .idle | .reset _ | .init | .read | .dummyRead | .returnWrite => s.frameByte b

/-- A run of bytes, the first one first. -/
def State.dataWrites (s : State) (bytes : List Byte) : State := bytes.foldl State.dataWrite s

/-! ## Byte output -/

/-- `SEQ` (R300). -/
def resetSequence : Vector Byte 6 := #v[0x00#8, 0x01#8, 0x01#8, 0x00#8, 0x01#8, 0x01#8]

/-- `H`, the length of the preamble (R302). -/
def preambleLength (t : TriggerMode) : Nat :=
  match t with
  | .readTrigger => 3
  | .writeTrigger => 2

/-- `TR`, the trailer; its length is `L` (R302). -/
def trailer (cfg : Config) : List Byte :=
  match cfg.triggerMode with
  | .readTrigger => cfg.trailerRt.toList
  | .writeTrigger => cfg.trailerWt.toList

/-- The length of the whole stream, `H + B + L` (R303). -/
def streamLength (cfg : Config) (blockSize : BitVec 32) : Nat :=
  preambleLength cfg.triggerMode + blockSize.toNat + (trailer cfg).length

/-- The byte of a read stream at `read_pos` (R302); a position past the trailer, which no run reaches,
gives its last byte (log 19). -/
def SpiCard.streamByte (c : SpiCard) (cfg : Config) : Byte :=
  let h := preambleLength cfg.triggerMode
  let p := c.readPos
  if p = 0 then 0xFF#8
  else if p < h then 0xFE#8
  else if p < h + c.blockSize.toNat then c.readBuffer.getD (p - h) 0x00#8
  else (trailer cfg).getD (p - h - c.blockSize.toNat) ((trailer cfg).getLastD 0x00#8)

/-- The byte `data_read()` returns (R298 to R304). -/
def SpiCard.readByte (c : SpiCard) (cfg : Config) : Byte :=
  match c.state with
  | .returnWrite => 0xFF#8
  | .reset step => resetSequence[step]
  | .init => 0x00#8
  | .read | .dummyRead => c.streamByte cfg
  | .idle | .write | .dummyWrite => c.resp.headD 0x00#8

/-- `ReturnWrite` read (R299). -/
def SpiCard.afterReturnWrite (c : SpiCard) : SpiCard := { c with state := .idle }

/-- `Reset(step)` read (R300). -/
def SpiCard.afterReset (c : SpiCard) (step : Fin 6) : SpiCard :=
  { c with state := if h : step.val < 5 then .reset ⟨step.val + 1, by omega⟩ else .idle }

/-- `Init` read (R301). -/
def SpiCard.afterInit (c : SpiCard) : SpiCard := { c with state := .idle }

/-- A stream byte read (R303): the position stops at the last trailer byte. -/
def SpiCard.afterStream (c : SpiCard) (cfg : Config) : SpiCard :=
  if c.readPos + 1 < streamLength cfg c.blockSize then { c with readPos := c.readPos + 1 } else c

/-- `Idle`, `Write`, `DummyWrite` read (R304): one response byte is taken if there is one. -/
def SpiCard.afterIdle (c : SpiCard) : SpiCard := { c with resp := c.resp.tail }

/-- What `data_read()` leaves behind (R299 to R304). -/
def SpiCard.afterRead (c : SpiCard) (cfg : Config) : SpiCard :=
  match c.state with
  | .returnWrite => c.afterReturnWrite
  | .reset step => c.afterReset step
  | .init => c.afterInit
  | .read | .dummyRead => c.afterStream cfg
  | .idle | .write | .dummyWrite => c.afterIdle

/-- `data_read()` (R298). -/
def State.dataRead (s : State) : State :=
  (s.setCard (s.card.afterRead s.cfg)).emit (.byte (s.card.readByte s.cfg))

/-! ## The meanings of the rows -/

/-- A frame written byte by byte: sync, command byte, argument, and what follows (30_encoding.md R120). -/
def State.cardFrame (s : State) (cmdByte : Byte) (arg : BitVec 32) (rest : List Byte) : Result :=
  .next (s.dataWrites (0xFF#8 :: cmdByte :: (argBytes arg ++ rest)))

/-- SD_CMD0 (R282). -/
def execSdCmd0 (arg : BitVec 32) (s : State) : Result := s.cardFrame 0x40#8 arg []

/-- SD_CMD1 (R283). -/
def execSdCmd1 (arg : BitVec 32) (s : State) : Result := s.cardFrame 0x41#8 arg []

/-- SD_CMD8 (R284). -/
def execSdCmd8 (arg : BitVec 32) (crc : Byte) (x : BitVec 16) (s : State) : Result :=
  s.cardFrame 0x48#8 arg [crc, highByte x, lowByte x]

/-- SD_CMD9 (R285). -/
def execSdCmd9 (arg : BitVec 32) (crc : Byte) (x : BitVec 16) (s : State) : Result :=
  s.cardFrame 0x49#8 arg [crc, highByte x, lowByte x]

/-- SD_CMD10 (R286). -/
def execSdCmd10 (arg : BitVec 32) (crc : Byte) (x : BitVec 16) (s : State) : Result :=
  s.cardFrame 0x4A#8 arg [crc, highByte x, lowByte x]

/-- SD_CMD12 (R288). -/
def execSdCmd12 (arg : BitVec 32) (s : State) : Result := s.cardFrame 0x4C#8 arg []

/-- SD_CMD16 (R289). -/
def execSdCmd16 (arg : BitVec 32) (crc : Byte) (x : BitVec 16) (s : State) : Result :=
  s.cardFrame 0x50#8 arg [crc, highByte x, lowByte x]

/-- SD_CMD17 (R292). -/
def execSdCmd17 (arg : BitVec 32) (s : State) : Result := s.cardFrame 0x51#8 arg []

/-- SD_CMD24 (R294). -/
def execSdCmd24 (arg : BitVec 32) (s : State) : Result := s.cardFrame 0x58#8 arg []

/-- SD_ACMD41 (R295). -/
def execSdAcmd41 (arg : BitVec 32) (s : State) : Result := s.cardFrame 0x69#8 arg []

/-- SD_CMD55 (R296). -/
def execSdCmd55 (arg : BitVec 32) (s : State) : Result := s.cardFrame 0x77#8 arg []

/-- SD_CMD58 (R297). -/
def execSdCmd58 (arg : BitVec 32) (s : State) : Result := s.cardFrame 0x7A#8 arg []

/-- SD_UNKNOWN (R281). -/
def execSdUnknown (cmdByte : Byte) (arg : BitVec 32) (s : State) : Result :=
  s.cardFrame cmdByte arg []

/-- SD_WTOKEN: the byte 0xFE (R307). -/
def execSdWtoken (s : State) : Result := .next (s.dataWrite 0xFE#8)

/-- SD_WDATA (R308). -/
def execSdWdata (b : Byte) (s : State) : Result := .next (s.dataWrite b)

/-- SD_WCRC (R310). -/
def execSdWcrc (b : Byte) (s : State) : Result := .next (s.dataWrite b)

/-- SD_RX_RETURNWRITE (R299). -/
def execSdRxReturnwrite (s : State) : Result := .next s.dataRead

/-- SD_RX_RESET (R300). -/
def execSdRxReset (s : State) : Result := .next s.dataRead

/-- SD_RX_INIT (R301). -/
def execSdRxInit (s : State) : Result := .next s.dataRead

/-- SD_RX_STREAM (R302, R303). -/
def execSdRxStream (s : State) : Result := .next s.dataRead

/-- SD_RX_IDLE (R304). -/
def execSdRxIdle (s : State) : Result := .next s.dataRead

/-- SD_RESET (70_reset_and_hazards.md R366): everything to its power-on value; image and configuration
untouched. -/
def execSdReset (s : State) : Result := .next (s.setCard SpiCard.powerOn)

end Sys2Proof.Machine
end

