-- ==== Sys2Proof/Machine/Eeprom.lean ====
section
/-! DEFINITION. The serial EEPROM (43_eeprom.md): the four line operations, the input shift with its
thresholds 1, 3, 5, 13 and 29, the seven commands, the read stream, the busy handshake, and the
meanings of the frame and line rows. -/

namespace Sys2Proof.Machine

/-! ## Helpers of 43_eeprom.md -/

/-- `boundary()`. -/
def SerialEeprom.boundary (e : SerialEeprom) : SerialEeprom := { e with inSr := 0#29, inCnt := 0 }

/-- `idle()`. -/
def SerialEeprom.idle (e : SerialEeprom) : SerialEeprom := { e.boundary with command := .none }

/-- `word(A)`: the byte at `2A` is the high one (10_state.md R40). -/
def SerialEeprom.word (e : SerialEeprom) (a : BitVec 10) : BitVec 16 :=
  wordOfBytes (e.cells.read (2 * a.toNat)) (e.cells.read (2 * a.toNat + 1))

/-- A word stored, high byte at the even address. -/
def Memory.writeWord (m : Memory) (a : Nat) (d : BitVec 16) : Memory :=
  (m.write (2 * a) (highByte d)).write (2 * a + 1) (lowByte d)

/-- The same word stored in the `n` lowest words, the highest first. -/
def Memory.writeWords (m : Memory) (d : BitVec 16) : Nat → Memory
  | 0 => m
  | n + 1 => Memory.writeWords (Memory.writeWord m n d) d n

/-! ## Commands -/

/-- READ at the thirteenth edge (R233). -/
def SerialEeprom.cmdRead (e : SerialEeprom) : SerialEeprom :=
  { e with command := .readAddrLatched, dout := false }

/-- WEN (R235). -/
def SerialEeprom.cmdWen (e : SerialEeprom) : SerialEeprom := { e.idle with wel := true }

/-- WDS (R236). -/
def SerialEeprom.cmdWds (e : SerialEeprom) : SerialEeprom := { e.idle with wel := false }

/-- ERAL (R237): rejected without the latch (R244); idle either way. -/
def SerialEeprom.cmdEral (e : SerialEeprom) : SerialEeprom :=
  if e.wel then { e.idle with cells := e.cells.erase 0 2048 } else e.idle

/-- An accepted programming command shows `Busy` (R245). -/
def SerialEeprom.showBusy (e : SerialEeprom) : SerialEeprom := { e.boundary with command := .busy }

/-- ERASE (R243). -/
def SerialEeprom.cmdErase (e : SerialEeprom) : SerialEeprom :=
  if e.wel then { e.showBusy with cells := e.cells.writeWord e.addr.toNat 0xFFFF#16 } else e.idle

/-- WRITE at the twenty-ninth edge (R241): the word is replaced, not and-ed. -/
def SerialEeprom.cmdWrite (e : SerialEeprom) (d : BitVec 16) : SerialEeprom :=
  if e.wel then { e.showBusy with cells := e.cells.writeWord e.addr.toNat d } else e.idle

/-- WRAL at the twenty-ninth edge (R242): every one of the 1024 words. -/
def SerialEeprom.cmdWral (e : SerialEeprom) (d : BitVec 16) : SerialEeprom :=
  if e.wel then { e.showBusy with cells := e.cells.writeWords d 1024 } else e.idle

/-! ## Thresholds -/

/-- Threshold 1, the start bit (R229). -/
def SerialEeprom.startBit (e : SerialEeprom) : SerialEeprom :=
  if e.di then { e with command := .none } else e.boundary

/-- Threshold 3, the opcode class (R230). -/
def SerialEeprom.opcodeClass (e : SerialEeprom) : SerialEeprom :=
  let cls := e.inSr.extractLsb' 0 3
  if cls = 0b110#3 then { e with command := .read }
  else if cls = 0b101#3 then { e with command := .write }
  else if cls = 0b111#3 then { e with command := .erase }
  else e

/-- Threshold 5, the sub-opcode of the extended class (R231). -/
def SerialEeprom.subOpcode (e : SerialEeprom) : SerialEeprom :=
  if e.command = .none then
    let sub := e.inSr.extractLsb' 0 2
    if sub = 0b00#2 then { e with command := .writeDisable }
    else if sub = 0b01#2 then { e with command := .writeAll }
    else if sub = 0b10#2 then { e with command := .eraseAll }
    else { e with command := .writeEnable }
  else e

/-- Threshold 13, the address and the commands that need no data (R232). -/
def SerialEeprom.addressDone (e : SerialEeprom) : SerialEeprom :=
  let e1 := { e with addr := e.inSr.extractLsb' 0 10 }
  match e1.command with
  | .read => e1.cmdRead
  | .writeEnable => e1.cmdWen
  | .writeDisable => e1.cmdWds
  | .eraseAll => e1.cmdEral
  | .erase => e1.cmdErase
  | .write | .writeAll => e1
  | .none | .readAddrLatched | .readStreaming | .busy | .ready => e1

/-- Threshold 29, the data word (R241, R242). -/
def SerialEeprom.dataDone (e : SerialEeprom) : SerialEeprom :=
  let d := e.inSr.extractLsb' 0 16
  match e.command with
  | .write => e.cmdWrite d
  | .writeAll => e.cmdWral d
  | .none | .read | .erase | .eraseAll | .writeEnable | .writeDisable | .readAddrLatched
  | .readStreaming | .busy | .ready => e

/-- The threshold rule for the new count (R228). -/
def SerialEeprom.threshold (e : SerialEeprom) : SerialEeprom :=
  if e.inCnt = 1 then e.startBit
  else if e.inCnt = 3 then e.opcodeClass
  else if e.inCnt = 5 then e.subOpcode
  else if e.inCnt = 13 then e.addressDone
  else if e.inCnt = 29 then e.dataDone
  else e

/-! ## Edges -/

/-- One bit into the input register, first bit most significant (10_state.md R42). -/
def shiftIn (sr : BitVec 29) (b : Bool) : BitVec 29 := (sr <<< 1) ||| BitVec.ofNat 29 b.toNat

/-- The input shift (R228). -/
def SerialEeprom.shiftBit (e : SerialEeprom) : SerialEeprom :=
  SerialEeprom.threshold { e with inSr := shiftIn e.inSr e.di, inCnt := e.inCnt + 1 }

/-- The dummy edge of a READ (R239). -/
def SerialEeprom.dummyEdge (e : SerialEeprom) : SerialEeprom :=
  { e with outSr := e.word e.addr, outCnt := 0, dout := false, command := .readStreaming }

/-- One streaming edge (R240): a bit out, and the next word after the sixteenth. -/
def SerialEeprom.streamEdge (e : SerialEeprom) : SerialEeprom :=
  if e.outCnt + 1 = 16 then
    { e with
      dout := e.outSr.getLsbD 15
      addr := e.addr + 1#10
      outSr := e.word (e.addr + 1#10)
      outCnt := 0 }
  else
    { e with dout := e.outSr.getLsbD 15, outSr := e.outSr <<< 1, outCnt := e.outCnt + 1 }

/-- The rising-edge action, selected by `command` before the edge (R227). -/
def SerialEeprom.risingEdge (e : SerialEeprom) : SerialEeprom :=
  match e.command with
  | .readAddrLatched => e.dummyEdge
  | .readStreaming => e.streamEdge
  | .none | .read | .write | .erase | .writeAll | .eraseAll | .writeEnable | .writeDisable | .busy
  | .ready => e.shiftBit

/-! ## The four line operations (R220) -/

/-- `write_data(b)` (R221). -/
def SerialEeprom.writeData (e : SerialEeprom) (b : Bool) : SerialEeprom := { e with di := b }

/-- `write_clock(v)` (R226): the action on a rising edge while selected, then the level. -/
def SerialEeprom.writeClock (e : SerialEeprom) (v : Bool) : SerialEeprom :=
  if e.cs ∧ e.ck = false ∧ v then { e.risingEdge with ck := v } else { e with ck := v }

/-- Chip select rising (R224): a command boundary only while the clock is low. -/
def SerialEeprom.selectRise (e : SerialEeprom) : SerialEeprom :=
  if e.ck = false then e.boundary else e

/-- Chip select falling (R225, R246): a read ends, `Busy` becomes `Ready`. The read's bit counter is
cleared with it (95_test_vectors.md V73; log 16). -/
def SerialEeprom.selectFall (e : SerialEeprom) : SerialEeprom :=
  match e.command with
  | .readAddrLatched | .readStreaming => { e.idle with dout := false, outCnt := 0 }
  | .busy => { e with command := .ready }
  | .none | .read | .write | .erase | .writeAll | .eraseAll | .writeEnable | .writeDisable
  | .ready => e

/-- `write_select(v)` (R222, R223): acts on the edge, then stores the level. -/
def SerialEeprom.writeSelect (e : SerialEeprom) (v : Bool) : SerialEeprom :=
  if v = e.cs then e
  else if v then { e.selectRise with cs := v }
  else { e.selectFall with cs := v }

/-- `read_data()` (R247). -/
def SerialEeprom.readData (e : SerialEeprom) (deselected : Bool) : Bool :=
  dataOut deselected e.cs e.dout e.command

/-- `bit b`: `DI b; CK 1; CK 0` (00_scope.md R18). -/
def SerialEeprom.clockBit (e : SerialEeprom) (b : Bool) : SerialEeprom :=
  ((e.writeData b).writeClock true).writeClock false

/-- A run of bits, the first one first (30_encoding.md R116). -/
def SerialEeprom.clockBits (e : SerialEeprom) (bits : List Bool) : SerialEeprom :=
  bits.foldl SerialEeprom.clockBit e

/-- SerialEEPROM `reset()` (70_reset_and_hazards.md R365): `cells`, `wel` and the lines are kept. -/
def SerialEeprom.reset (e : SerialEeprom) : SerialEeprom :=
  { e with inSr := 0#29, inCnt := 0, outSr := 0#16, outCnt := 0, command := .none, addr := 0#10 }

/-! ## The meanings of the rows -/

/-- A frame presented bit by bit. -/
def State.eepromFrame (s : State) (bits : List Bool) : Result :=
  .next (s.setEeprom (s.eeprom.clockBits bits))

/-- EE_READ (R233): `1 10 A9..A0`. -/
def execEeRead (a : BitVec 10) (s : State) : Result :=
  s.eepromFrame (msbBits 3 6 ++ msbBits 10 a.toNat)

/-- EE_WRITE (R241): `1 01 A9..A0 D15..D0`. -/
def execEeWrite (a : BitVec 10) (d : BitVec 16) (s : State) : Result :=
  s.eepromFrame (msbBits 3 5 ++ msbBits 10 a.toNat ++ msbBits 16 d.toNat)

/-- EE_ERASE (R243): `1 11 A9..A0`. -/
def execEeErase (a : BitVec 10) (s : State) : Result :=
  s.eepromFrame (msbBits 3 7 ++ msbBits 10 a.toNat)

/-- EE_WDS (R236): `1 00 00` and eight ignored bits. -/
def execEeWds (x : BitVec 8) (s : State) : Result :=
  s.eepromFrame (msbBits 5 16 ++ msbBits 8 x.toNat)

/-- EE_WRAL (R242): `1 00 01`, eight ignored bits and the data word. -/
def execEeWral (x : BitVec 8) (d : BitVec 16) (s : State) : Result :=
  s.eepromFrame (msbBits 5 17 ++ msbBits 8 x.toNat ++ msbBits 16 d.toNat)

/-- EE_ERAL (R237): `1 00 10` and eight ignored bits. -/
def execEeEral (x : BitVec 8) (s : State) : Result :=
  s.eepromFrame (msbBits 5 18 ++ msbBits 8 x.toNat)

/-- EE_WEN (R235): `1 00 11` and eight ignored bits. -/
def execEeWen (x : BitVec 8) (s : State) : Result :=
  s.eepromFrame (msbBits 5 19 ++ msbBits 8 x.toNat)

/-- EE_ZERO_START (R229): a single zero bit, discarded where a start bit is expected. -/
def execEeZeroStart (s : State) : Result := s.eepromFrame [false]

/-- EE_CS_RISE (R224). -/
def execEeCsRise (s : State) : Result := .next (s.setEeprom (s.eeprom.writeSelect true))

/-- EE_CS_FALL (R225). -/
def execEeCsFall (s : State) : Result := .next (s.setEeprom (s.eeprom.writeSelect false))

/-- EE_CLK (R226). -/
def execEeClk (v : Bool) (s : State) : Result := .next (s.setEeprom (s.eeprom.writeClock v))

/-- EE_DI (R221). -/
def execEeDi (b : Bool) (s : State) : Result := .next (s.setEeprom (s.eeprom.writeData b))

/-- EE_DO (R247): no side effect; the level is returned. -/
def execEeDo (s : State) : Result :=
  .next (s.emit (.bit (s.eeprom.readData s.cfg.eeDoDeselected)))

/-- EE_DUMMY_EDGE (R239): a rising clock edge in `ReadAddrLatched`. -/
def execEeDummyEdge (s : State) : Result := .next (s.setEeprom (s.eeprom.writeClock true))

/-- EE_STREAM_EDGE (R240): a rising clock edge in `ReadStreaming`. -/
def execEeStreamEdge (s : State) : Result := .next (s.setEeprom (s.eeprom.writeClock true))

/-- EE_RESET (70_reset_and_hazards.md R365). -/
def execEeReset (s : State) : Result := .next (s.setEeprom s.eeprom.reset)

end Sys2Proof.Machine
end

