-- ==== Sys2Proof/Machine/FlashRead.lean ====
section
/-! DEFINITION. FlashChip read cycles (41_flash_read.md): the value each state returns, the latch every
read writes, the alias read, and the meanings of the read rows. -/

namespace Sys2Proof.Machine

/-- FL_READ_ARRAY (R181): the stored byte. -/
def FlashChip.arrayByte (f : FlashChip) (addr : Nat) : Byte := f.data.read addr

/-- FL_READ_ID (R183, R184): the tests in the rule's order on the remapped low byte; the fall-through
uses the address as the master gave it. -/
def FlashChip.idByte (f : FlashChip) (v : Variant) (addr : Nat) : Byte :=
  let lo := autoselectLow v addr
  if lo = 0x00#8 then v.manufacturerId
  else if lo = v.deviceIdAddr then v.deviceId
  else if lo = 0x02#8 then 0x00#8
  else f.data.read addr

/-- The value `read(addr)` returns, chosen by the state (R180). -/
def FlashChip.readValue (f : FlashChip) (c : Config) (clk addr : Nat) : Byte :=
  match f.seq with
  | .read | .unlock1 | .unlock2 | .byteProgram | .eraseUnlock1 | .eraseUnlock2 | .eraseSelect =>
    f.arrayByte addr
  | .autoselect => f.idByte c.variant addr
  | .byteProgramError => programStatus c clk f.programByte
  | .chipErase | .sectorErase | .sectorEraseTimeout | .sectorEraseSuspend =>
    eraseStatus f.seq f.programByte

/-- What `read(addr)` leaves behind: `last_read` always, and the toggled `program_byte` in an erase state
(R180, R187). -/
def FlashChip.afterRead (f : FlashChip) (c : Config) (clk addr : Nat) : FlashChip :=
  { f with
    lastRead := f.readValue c clk addr
    programByte := if inErase f.seq then toggled c.variant f.programByte else f.programByte }

/-- `read(addr)`: the value is returned to the master and the latches change. -/
def State.readCycle (s : State) (addr : Nat) : Result :=
  s.atFlash addr
    ((s.setFlash (s.flash.afterRead s.cfg s.clk addr)).emit
      (.byte (s.flash.readValue s.cfg s.clk addr)))

/-- The alias read: `data[addr]` whatever the state, no side effect (R189, 20_memory.md R89). -/
def State.peek (s : State) (addr : Nat) : Result :=
  s.atFlash addr (s.emit (.byte (s.flash.data.read addr)))

/-- FL_READ_ARRAY: a read cycle in an array state (R181). -/
def execFlReadArray (addr : Nat) (s : State) : Result := s.readCycle addr

/-- FL_READ_ID: a read cycle in `Autoselect` (R183). -/
def execFlReadId (addr : Nat) (s : State) : Result := s.readCycle addr

/-- FL_READ_PSTATUS: a read cycle in `ByteProgramError` (R186). -/
def execFlReadPstatus (addr : Nat) (s : State) : Result := s.readCycle addr

/-- FL_READ_ESTATUS: a read cycle in an erase state (R187). -/
def execFlReadEstatus (addr : Nat) (s : State) : Result := s.readCycle addr

/-- FL_PEEK (R189). -/
def execFlPeek (addr : Nat) (s : State) : Result := s.peek addr

end Sys2Proof.Machine
end

