-- ==== Sys2Proof/Machine/FlashSnapshot.lean ====
section
/-! DEFINITION. The FlashChip's save-state port (60_exceptions.md R344 to R349) and the glue's access to
`dirty` (10_state.md R65). -/

namespace Sys2Proof.Machine

/-- The bytes of a snapshot, `12 + SIZE` of them (R345). -/
def FlashChip.snapshotBytes (f : FlashChip) (v : Variant) : List Byte :=
  stateCode f.seq :: stateCode f.baseState :: f.programByte ::
    (pendingBytes f.pending ++ f.lastRead :: f.data.readRange 0 v.size)

/-- The timer after a load (R349): a full duration for the state loaded, none outside the timed states. -/
def FlashChip.armLoaded (f : FlashChip) (c : Config) (clk : Nat) : FlashChip :=
  match f.seq with
  | .chipErase => f.arm clk c.tChipErase
  | .sectorErase => f.arm clk c.tSectorErase
  | .sectorEraseTimeout => f.arm clk c.tSectorTimeout
  | .read | .unlock1 | .unlock2 | .autoselect | .byteProgram | .byteProgramError | .eraseUnlock1
  | .eraseUnlock2 | .eraseSelect | .sectorEraseSuspend => f.cancel

/-- The chip a snapshot describes, none when the length is not `12 + SIZE` or a state code is above 12
(R347). Every saved field is assigned, `dirty` is set, and the timer is set by R349. -/
def FlashChip.load (f : FlashChip) (c : Config) (clk : Nat) (bytes : List Byte) : Option FlashChip :=
  match bytes with
  | st :: bs :: pb :: p0 :: p1 :: p2 :: p3 :: p4 :: p5 :: p6 :: p7 :: lr :: content =>
    if content.length = c.variant.size then
      match stateOfCode st, stateOfCode bs with
      | some q, some qb =>
        some <| FlashChip.armLoaded
          { f with
            seq := q
            baseState := qb
            programByte := pb
            pending := pendingOfBytes p0 p1 p2 p3 p4 p5 p6 p7
            lastRead := lr
            data := Memory.ofBytes 0 content
            dirty := true } c clk
      | _, _ => none
    else none
  | _ => none

/-- Snapshot save: the bytes are returned and nothing changes (R346). -/
def State.snapshotSave (s : State) : State :=
  s.emit (.snapshot (s.flash.snapshotBytes s.cfg.variant))

/-- Snapshot load: another major version or a malformed image is an error to the caller and changes no
state (R347). -/
def State.snapshotLoad (s : State) (major : Nat) (bytes : List Byte) : State :=
  if major = s.cfg.snapshotMajor then
    match s.flash.load s.cfg s.clk bytes with
    | some f => (s.setFlash f).emit (.loaded true)
    | none => s.emit (.loaded false)
  else s.emit (.loaded false)

/-- The glue clears `dirty` after it has persisted the contents (10_state.md R28, R65; log 25). -/
def State.clearDirty (s : State) : State := s.setFlash { s.flash with dirty := false }

/-- FL_SNAPSHOT_SAVE (R346). -/
def execFlSnapshotSave (s : State) : Result := .next s.snapshotSave

/-- FL_SNAPSHOT_LOAD (R347). -/
def execFlSnapshotLoad (major : Nat) (bytes : List Byte) (s : State) : Result :=
  .next (s.snapshotLoad major bytes)

end Sys2Proof.Machine
end

