-- ==== Sys2Proof/Machine/FlashStore.lean ====
section
/-! DEFINITION. FlashChip write cycles (40_flash_store.md). First the effect of each row on the chip, one
definition a row; then the internal store `S(addr, byte)`, which selects the row by the sequencer's
state; then the meaning of each row as an instruction: the bus cycle that presents it (log 10). -/

namespace Sys2Proof.Machine

/-! ## The effects of the rows -/

/-- FL_UNLOCK_A (R141). -/
def FlashChip.unlockA (f : FlashChip) : FlashChip := f.goto .unlock1

/-- FL_IGNORE_READ (R142): nothing changes. -/
def FlashChip.ignoreRead (f : FlashChip) : FlashChip := f

/-- FL_UNLOCK_B (R143). -/
def FlashChip.unlockB (f : FlashChip) : FlashChip := f.goto .unlock2

/-- FL_ABORT_UNLOCK1 (R144). -/
def FlashChip.abortUnlock1 (f : FlashChip) : FlashChip := f.gotoBase

/-- FL_AUTOSELECT (R145). -/
def FlashChip.autoselect (f : FlashChip) : FlashChip :=
  { f with seq := .autoselect, baseState := .autoselect }

/-- FL_RESET_LONG (R146). -/
def FlashChip.resetLong (f : FlashChip) : FlashChip := f.returnToRead

/-- FL_PROGRAM_SETUP (R147). -/
def FlashChip.programSetup (f : FlashChip) : FlashChip := f.goto .byteProgram

/-- FL_ERASE_SETUP (R148). -/
def FlashChip.eraseSetup (f : FlashChip) : FlashChip := f.goto .eraseUnlock1

/-- FL_ABORT_UNLOCK2 (R149). -/
def FlashChip.abortUnlock2 (f : FlashChip) : FlashChip := f.gotoBase

/-- FL_PROGRAM_DATA (R150): new = old AND byte, stored whether or not the program fails. -/
def FlashChip.programData (f : FlashChip) (addr : Nat) (byte : Byte) : FlashChip :=
  let old := f.data.read addr
  let f1 :=
    { f with data := f.data.write addr (old &&& byte), programByte := byte, dirty := true }
  if programFails old byte then f1.enterProgramError else f1.gotoBase

/-- FL_ERASE_UNLOCK_A (R152). -/
def FlashChip.eraseUnlockA (f : FlashChip) : FlashChip := f.goto .eraseUnlock2

/-- FL_ABORT_ERASEUNLOCK1 (R153). -/
def FlashChip.abortEraseUnlock1 (f : FlashChip) : FlashChip := f.gotoBase

/-- FL_ERASE_UNLOCK_B (R154). -/
def FlashChip.eraseUnlockB (f : FlashChip) : FlashChip := f.goto .eraseSelect

/-- FL_ABORT_ERASEUNLOCK2 (R155). -/
def FlashChip.abortEraseUnlock2 (f : FlashChip) : FlashChip := f.gotoBase

/-- FL_CHIP_ERASE (R156): the fill waits for the expiry. -/
def FlashChip.chipErase (f : FlashChip) (c : Config) (clk : Nat) : FlashChip :=
  ({ f with programByte := 0x00#8 }.goto .chipErase).arm clk c.tChipErase

/-- FL_SECTOR_ERASE (R157). -/
def FlashChip.sectorErase (f : FlashChip) (c : Config) (clk addr : Nat) : FlashChip :=
  ({ f with
      pending := markSector f.pending (sectorOf c.variant addr)
      programByte := 0x00#8 }.goto .sectorEraseTimeout).arm clk c.tSectorTimeout

/-- FL_ABORT_ERASESELECT (R161). -/
def FlashChip.abortEraseSelect (f : FlashChip) : FlashChip := f.gotoBase

/-- FL_SECTOR_ADD (R159): another sector marked, the timer not reset. -/
def FlashChip.sectorAdd (f : FlashChip) (c : Config) (addr : Nat) : FlashChip :=
  { f with pending := markSector f.pending (sectorOf c.variant addr) }

/-- FL_ERASE_CANCEL (R160): the timer cancelled and the queue forgotten. -/
def FlashChip.eraseCancel (f : FlashChip) : FlashChip :=
  { f.gotoBase.cancel with pending := 0#64 }

/-- FL_ERASE_SUSPEND (R163). -/
def FlashChip.eraseSuspend (f : FlashChip) : FlashChip := (f.goto .sectorEraseSuspend).cancel

/-- FL_ERASE_RESUME (R164): a full sector duration again. -/
def FlashChip.eraseResume (f : FlashChip) (c : Config) (clk : Nat) : FlashChip :=
  (f.goto .sectorErase).arm clk c.tSectorErase

/-- FL_IGNORE_SECTORERASE (R165): nothing changes. -/
def FlashChip.ignoreSectorErase (f : FlashChip) : FlashChip := f

/-- FL_IGNORE_CHIPERASE (R166): nothing changes. -/
def FlashChip.ignoreChipErase (f : FlashChip) : FlashChip := f

/-- FL_REUNLOCK (R167): `base_state` is kept. -/
def FlashChip.reunlock (f : FlashChip) : FlashChip := f.goto .unlock1

/-- FL_RESET_SHORT (R168). -/
def FlashChip.resetShort (f : FlashChip) : FlashChip := f.returnToRead

/-- FL_IGNORE_ERROR_AUTOSELECT (R169): nothing changes. -/
def FlashChip.ignoreErrorAutoselect (f : FlashChip) : FlashChip := f

/-! ## The internal store -/

/-- `S(addr, byte)` (R140): exactly one row applies, selected by `state` before the store and then by the
tests of 30_encoding.md R111 in the order of R112. -/
def FlashChip.store (f : FlashChip) (c : Config) (clk addr : Nat) (byte : Byte) : FlashChip :=
  match f.seq with
  | .read => if isM1 c.variant addr ∧ byte = 0xAA#8 then f.unlockA else f.ignoreRead
  | .unlock1 => if isM2 c.variant addr ∧ byte = 0x55#8 then f.unlockB else f.abortUnlock1
  | .unlock2 =>
    if isM1 c.variant addr then
      if byte = 0x90#8 then f.autoselect
      else if byte = 0xF0#8 then f.resetLong
      else if byte = 0xA0#8 then f.programSetup
      else if byte = 0x80#8 then f.eraseSetup
      else f.abortUnlock2
    else f.abortUnlock2
  | .byteProgram => f.programData addr byte
  | .eraseUnlock1 =>
    if isM1 c.variant addr ∧ byte = 0xAA#8 then f.eraseUnlockA else f.abortEraseUnlock1
  | .eraseUnlock2 =>
    if isM2 c.variant addr ∧ byte = 0x55#8 then f.eraseUnlockB else f.abortEraseUnlock2
  | .eraseSelect =>
    if isM1 c.variant addr ∧ byte = 0x10#8 then f.chipErase c clk
    else if byte = 0x30#8 then f.sectorErase c clk addr
    else f.abortEraseSelect
  | .sectorEraseTimeout => if byte = 0x30#8 then f.sectorAdd c addr else f.eraseCancel
  | .sectorErase => if byte = 0xB0#8 then f.eraseSuspend else f.ignoreSectorErase
  | .sectorEraseSuspend => if byte = 0x30#8 then f.eraseResume c clk else f.ignoreSectorErase
  | .chipErase => f.ignoreChipErase
  | .byteProgramError | .autoselect =>
    if isM1 c.variant addr ∧ byte = 0xAA#8 then f.reunlock
    else if byte = 0xF0#8 then f.resetShort
    else f.ignoreErrorAutoselect

/-- `store(addr, byte)` with `rmw = 0`: one internal store (R140). -/
def State.storeCycle (s : State) (addr : Nat) (byte : Byte) : Result :=
  s.atFlash addr (s.setFlash (s.flash.store s.cfg s.clk addr byte))

/-- `store(addr, byte)` with `rmw = 1`: the glitch store of `last_read` first, then the real one, both at
the same clock (R171). -/
def State.rmwCycle (s : State) (addr : Nat) (byte : Byte) : Result :=
  s.atFlash addr
    (s.setFlash
      ((s.flash.store s.cfg s.clk addr s.flash.lastRead).store s.cfg s.clk addr byte))

/-! ## The meanings of the rows -/

/-- FL_UNLOCK_A: the cycle `W addr,0xAA` (R141). -/
def execFlUnlockA (addr : Nat) (s : State) : Result := s.storeCycle addr 0xAA#8

/-- FL_IGNORE_READ: a cycle `Read` does not take (R142). -/
def execFlIgnoreRead (addr : Nat) (byte : Byte) (s : State) : Result := s.storeCycle addr byte

/-- FL_UNLOCK_B: the cycle `W addr,0x55` (R143). -/
def execFlUnlockB (addr : Nat) (s : State) : Result := s.storeCycle addr 0x55#8

/-- FL_ABORT_UNLOCK1: a cycle that abandons the sequence after the first unlock byte (R144). -/
def execFlAbortUnlock1 (addr : Nat) (byte : Byte) (s : State) : Result := s.storeCycle addr byte

/-- FL_AUTOSELECT: the cycle `W addr,0x90` (R145). -/
def execFlAutoselect (addr : Nat) (s : State) : Result := s.storeCycle addr 0x90#8

/-- FL_RESET_LONG: the cycle `W addr,0xF0` after an unlock (R146). -/
def execFlResetLong (addr : Nat) (s : State) : Result := s.storeCycle addr 0xF0#8

/-- FL_PROGRAM_SETUP: the cycle `W addr,0xA0` (R147). -/
def execFlProgramSetup (addr : Nat) (s : State) : Result := s.storeCycle addr 0xA0#8

/-- FL_ERASE_SETUP: the cycle `W addr,0x80` (R148). -/
def execFlEraseSetup (addr : Nat) (s : State) : Result := s.storeCycle addr 0x80#8

/-- FL_ABORT_UNLOCK2: a cycle that is no command after an unlock (R149). -/
def execFlAbortUnlock2 (addr : Nat) (byte : Byte) (s : State) : Result := s.storeCycle addr byte

/-- FL_PROGRAM_DATA: the data cycle of a byte program (R150). -/
def execFlProgramData (addr : Nat) (byte : Byte) (s : State) : Result := s.storeCycle addr byte

/-- FL_ERASE_UNLOCK_A: the cycle `W addr,0xAA` after an erase set-up (R152). -/
def execFlEraseUnlockA (addr : Nat) (s : State) : Result := s.storeCycle addr 0xAA#8

/-- FL_ABORT_ERASEUNLOCK1 (R153). -/
def execFlAbortEraseunlock1 (addr : Nat) (byte : Byte) (s : State) : Result := s.storeCycle addr byte

/-- FL_ERASE_UNLOCK_B: the cycle `W addr,0x55` after it (R154). -/
def execFlEraseUnlockB (addr : Nat) (s : State) : Result := s.storeCycle addr 0x55#8

/-- FL_ABORT_ERASEUNLOCK2 (R155). -/
def execFlAbortEraseunlock2 (addr : Nat) (byte : Byte) (s : State) : Result := s.storeCycle addr byte

/-- FL_CHIP_ERASE: the cycle `W addr,0x10` (R156). -/
def execFlChipErase (addr : Nat) (s : State) : Result := s.storeCycle addr 0x10#8

/-- FL_SECTOR_ERASE: the cycle `W addr,0x30` (R157). -/
def execFlSectorErase (addr : Nat) (s : State) : Result := s.storeCycle addr 0x30#8

/-- FL_ABORT_ERASESELECT (R161). -/
def execFlAbortEraseselect (addr : Nat) (byte : Byte) (s : State) : Result := s.storeCycle addr byte

/-- FL_SECTOR_ADD: the cycle `W addr,0x30` during the short timeout (R159). -/
def execFlSectorAdd (addr : Nat) (s : State) : Result := s.storeCycle addr 0x30#8

/-- FL_ERASE_CANCEL: any other byte during the short timeout (R160). -/
def execFlEraseCancel (addr : Nat) (byte : Byte) (s : State) : Result := s.storeCycle addr byte

/-- FL_ERASE_SUSPEND: the cycle `W addr,0xB0` (R163). -/
def execFlEraseSuspend (addr : Nat) (s : State) : Result := s.storeCycle addr 0xB0#8

/-- FL_ERASE_RESUME: the cycle `W addr,0x30` while suspended (R164). -/
def execFlEraseResume (addr : Nat) (s : State) : Result := s.storeCycle addr 0x30#8

/-- FL_IGNORE_SECTORERASE: a cycle a running or suspended sector erase ignores (R165). -/
def execFlIgnoreSectorerase (addr : Nat) (byte : Byte) (s : State) : Result := s.storeCycle addr byte

/-- FL_IGNORE_CHIPERASE: any cycle during a chip erase (R166). -/
def execFlIgnoreChiperase (addr : Nat) (byte : Byte) (s : State) : Result := s.storeCycle addr byte

/-- FL_REUNLOCK: the cycle `W addr,0xAA` in `ByteProgramError` or `Autoselect` (R167). -/
def execFlReunlock (addr : Nat) (s : State) : Result := s.storeCycle addr 0xAA#8

/-- FL_RESET_SHORT: the cycle `W addr,0xF0` there (R168). -/
def execFlResetShort (addr : Nat) (s : State) : Result := s.storeCycle addr 0xF0#8

/-- FL_IGNORE_ERROR_AUTOSELECT: any other cycle there (R169). -/
def execFlIgnoreErrorAutoselect (addr : Nat) (byte : Byte) (s : State) : Result :=
  s.storeCycle addr byte

/-- FL_RMW: the write half of a CPU read-modify-write cycle (R171). -/
def execFlRmw (addr : Nat) (byte : Byte) (s : State) : Result := s.rmwCycle addr byte

end Sys2Proof.Machine
end

