-- ==== Sys2Proof/Machine/FlashTimer.lean ====
section
/-! DEFINITION. The clock, the erase timer and the completion of an erase (42_flash_erase_timer.md), and
FlashChip's `reset()` (70_reset_and_hazards.md R362). -/

namespace Sys2Proof.Machine

/-- Expiry in `SectorEraseTimeout` (R203): the sector erase begins, nothing is erased yet. -/
def FlashChip.expireTimeout (f : FlashChip) (c : Config) (clk : Nat) : FlashChip :=
  (f.goto .sectorErase).arm clk c.tSectorErase

/-- One sector filled; a queued sector beyond the chip is not (60_exceptions.md R348; log 15). -/
def FlashChip.fillSector (f : FlashChip) (v : Variant) (i : Nat) : FlashChip :=
  if i <<< v.sectorShift < v.size then f.fill (i <<< v.sectorShift) v.sectorSize else f

/-- Expiry in `SectorErase` (R204): the lowest queued sector is popped and filled; the next one is timed,
or the chip returns to `base_state`. With an empty queue nothing is filled. -/
def FlashChip.expireSector (f : FlashChip) (c : Config) (clk : Nat) : FlashChip :=
  match lowestSector f.pending with
  | none => f.gotoBase
  | some i =>
    let f1 := { f with pending := dropSector f.pending i }.fillSector c.variant i
    if f1.pending = 0#64 then f1.gotoBase else f1.arm clk c.tSectorErase

/-- Expiry in `ChipErase` (R205): the whole chip filled, whatever is queued. -/
def FlashChip.expireChip (f : FlashChip) (c : Config) : FlashChip :=
  (f.fill 0 c.variant.size).gotoBase

/-- The handler `Expire` (R202): the timer is cleared first, then the state decides; in any other state
that is all (R206). -/
def FlashChip.expire (f : FlashChip) (c : Config) (clk : Nat) : FlashChip :=
  match f.seq with
  | .sectorEraseTimeout => f.cancel.expireTimeout c clk
  | .sectorErase => f.cancel.expireSector c clk
  | .chipErase => f.cancel.expireChip c
  | .read | .unlock1 | .unlock2 | .autoselect | .byteProgram | .byteProgramError | .eraseUnlock1
  | .eraseUnlock2 | .eraseSelect | .sectorEraseSuspend => f.cancel

/-- The timer is due: "enabled when `erase_timer = some(t)` and `clk >= t`" (R202). -/
def FlashChip.due (f : FlashChip) (clk : Nat) : Bool :=
  match f.eraseTimer with
  | none => false
  | some t => decide (t ≤ clk)

/-- One tick (R200, R202): the counter advances, and the handler runs in the tick that makes it equal to
the timer's target. -/
def State.tick (s : State) : State :=
  let s1 := { s with clk := s.clk + 1 }
  if s.flash.eraseTimer = some (s.clk + 1) then
    s1.setFlash (s.flash.expire s.cfg (s.clk + 1))
  else s1

/-- The expiry as a step of its own (R202): the handler when the timer is due, nothing when it is not
(log 13). -/
def State.expireStep (s : State) : State :=
  if s.flash.due s.clk then s.setFlash (s.flash.expire s.cfg s.clk) else s

/-- FlashChip `reset()` (70_reset_and_hazards.md R362): the array, `dirty` and `last_read` are kept. -/
def FlashChip.hwReset (f : FlashChip) : FlashChip :=
  { f with
    seq := .read
    baseState := .read
    programByte := 0x00#8
    pending := 0#64
    eraseTimer := none }

/-- FL_HW_RESET (70_reset_and_hazards.md R362). -/
def execFlHwReset (s : State) : Result := .next (s.setFlash s.flash.hwReset)

/-- FL_TICK (R200). -/
def execFlTick (s : State) : Result := .next s.tick

/-- FL_EXPIRE_TIMEOUT (R203): the expiry step, in `SectorEraseTimeout`. -/
def execFlExpireTimeout (s : State) : Result := .next s.expireStep

/-- FL_EXPIRE_SECTOR (R204): the expiry step, in `SectorErase`. -/
def execFlExpireSector (s : State) : Result := .next s.expireStep

/-- FL_EXPIRE_CHIP (R205): the expiry step, in `ChipErase`. -/
def execFlExpireChip (s : State) : Result := .next s.expireStep

end Sys2Proof.Machine
end

