-- ==== Sys2Proof/Machine/Dispatch.lean ====
section
/-! DEFINITION. The dispatch of an instruction to its meaning: one arm per row of spec/opcode_table.json. -/

namespace Sys2Proof.Machine

/-- The meaning of an instruction. -/
def exec (i : Instr) (s : State) : Host.Outcome State Fault Refusal :=
  match i with
  | .flUnlockA addr => Sys2Proof.Machine.execFlUnlockA addr s
  | .flIgnoreRead addr data => Sys2Proof.Machine.execFlIgnoreRead addr data s
  | .flUnlockB addr => Sys2Proof.Machine.execFlUnlockB addr s
  | .flAbortUnlock1 addr data => Sys2Proof.Machine.execFlAbortUnlock1 addr data s
  | .flAutoselect addr => Sys2Proof.Machine.execFlAutoselect addr s
  | .flResetLong addr => Sys2Proof.Machine.execFlResetLong addr s
  | .flProgramSetup addr => Sys2Proof.Machine.execFlProgramSetup addr s
  | .flEraseSetup addr => Sys2Proof.Machine.execFlEraseSetup addr s
  | .flAbortUnlock2 addr data => Sys2Proof.Machine.execFlAbortUnlock2 addr data s
  | .flProgramData addr data => Sys2Proof.Machine.execFlProgramData addr data s
  | .flEraseUnlockA addr => Sys2Proof.Machine.execFlEraseUnlockA addr s
  | .flAbortEraseunlock1 addr data => Sys2Proof.Machine.execFlAbortEraseunlock1 addr data s
  | .flEraseUnlockB addr => Sys2Proof.Machine.execFlEraseUnlockB addr s
  | .flAbortEraseunlock2 addr data => Sys2Proof.Machine.execFlAbortEraseunlock2 addr data s
  | .flChipErase addr => Sys2Proof.Machine.execFlChipErase addr s
  | .flSectorErase addr => Sys2Proof.Machine.execFlSectorErase addr s
  | .flAbortEraseselect addr data => Sys2Proof.Machine.execFlAbortEraseselect addr data s
  | .flSectorAdd addr => Sys2Proof.Machine.execFlSectorAdd addr s
  | .flEraseCancel addr data => Sys2Proof.Machine.execFlEraseCancel addr data s
  | .flEraseSuspend addr => Sys2Proof.Machine.execFlEraseSuspend addr s
  | .flEraseResume addr => Sys2Proof.Machine.execFlEraseResume addr s
  | .flIgnoreSectorerase addr data => Sys2Proof.Machine.execFlIgnoreSectorerase addr data s
  | .flIgnoreChiperase addr data => Sys2Proof.Machine.execFlIgnoreChiperase addr data s
  | .flReunlock addr => Sys2Proof.Machine.execFlReunlock addr s
  | .flResetShort addr => Sys2Proof.Machine.execFlResetShort addr s
  | .flIgnoreErrorAutoselect addr data => Sys2Proof.Machine.execFlIgnoreErrorAutoselect addr data s
  | .flRmw addr data => Sys2Proof.Machine.execFlRmw addr data s
  | .flReadArray addr => Sys2Proof.Machine.execFlReadArray addr s
  | .flReadId addr => Sys2Proof.Machine.execFlReadId addr s
  | .flReadPstatus addr => Sys2Proof.Machine.execFlReadPstatus addr s
  | .flReadEstatus addr => Sys2Proof.Machine.execFlReadEstatus addr s
  | .flPeek addr => Sys2Proof.Machine.execFlPeek addr s
  | .flHwReset => Sys2Proof.Machine.execFlHwReset s
  | .flTick => Sys2Proof.Machine.execFlTick s
  | .flExpireTimeout => Sys2Proof.Machine.execFlExpireTimeout s
  | .flExpireSector => Sys2Proof.Machine.execFlExpireSector s
  | .flExpireChip => Sys2Proof.Machine.execFlExpireChip s
  | .flSnapshotSave => Sys2Proof.Machine.execFlSnapshotSave s
  | .flSnapshotLoad major bytes => Sys2Proof.Machine.execFlSnapshotLoad major bytes s
  | .eeRead a => Sys2Proof.Machine.execEeRead a s
  | .eeWrite a d => Sys2Proof.Machine.execEeWrite a d s
  | .eeErase a => Sys2Proof.Machine.execEeErase a s
  | .eeWds x => Sys2Proof.Machine.execEeWds x s
  | .eeWral x d => Sys2Proof.Machine.execEeWral x d s
  | .eeEral x => Sys2Proof.Machine.execEeEral x s
  | .eeWen x => Sys2Proof.Machine.execEeWen x s
  | .eeZeroStart => Sys2Proof.Machine.execEeZeroStart s
  | .eeCsRise => Sys2Proof.Machine.execEeCsRise s
  | .eeCsFall => Sys2Proof.Machine.execEeCsFall s
  | .eeClk v => Sys2Proof.Machine.execEeClk v s
  | .eeDi b => Sys2Proof.Machine.execEeDi b s
  | .eeDo => Sys2Proof.Machine.execEeDo s
  | .eeDummyEdge => Sys2Proof.Machine.execEeDummyEdge s
  | .eeStreamEdge => Sys2Proof.Machine.execEeStreamEdge s
  | .eeReset => Sys2Proof.Machine.execEeReset s
  | .sdCmd0 arg => Sys2Proof.Machine.execSdCmd0 arg s
  | .sdCmd1 arg => Sys2Proof.Machine.execSdCmd1 arg s
  | .sdCmd8 arg crc x => Sys2Proof.Machine.execSdCmd8 arg crc x s
  | .sdCmd9 arg crc x => Sys2Proof.Machine.execSdCmd9 arg crc x s
  | .sdCmd10 arg crc x => Sys2Proof.Machine.execSdCmd10 arg crc x s
  | .sdCmd12 arg => Sys2Proof.Machine.execSdCmd12 arg s
  | .sdCmd16 arg crc x => Sys2Proof.Machine.execSdCmd16 arg crc x s
  | .sdCmd17 arg => Sys2Proof.Machine.execSdCmd17 arg s
  | .sdCmd24 arg => Sys2Proof.Machine.execSdCmd24 arg s
  | .sdAcmd41 arg => Sys2Proof.Machine.execSdAcmd41 arg s
  | .sdCmd55 arg => Sys2Proof.Machine.execSdCmd55 arg s
  | .sdCmd58 arg => Sys2Proof.Machine.execSdCmd58 arg s
  | .sdUnknown c arg => Sys2Proof.Machine.execSdUnknown c arg s
  | .sdWtoken => Sys2Proof.Machine.execSdWtoken s
  | .sdWdata b => Sys2Proof.Machine.execSdWdata b s
  | .sdWcrc b => Sys2Proof.Machine.execSdWcrc b s
  | .sdRxReturnwrite => Sys2Proof.Machine.execSdRxReturnwrite s
  | .sdRxReset => Sys2Proof.Machine.execSdRxReset s
  | .sdRxInit => Sys2Proof.Machine.execSdRxInit s
  | .sdRxStream => Sys2Proof.Machine.execSdRxStream s
  | .sdRxIdle => Sys2Proof.Machine.execSdRxIdle s
  | .sdReset => Sys2Proof.Machine.execSdReset s

end Sys2Proof.Machine
end

