-- ==== Sys2Proof/Machine/Perform.lean ====
section
/-! DEFINITION. Taking the master's next operation, the context the decoder looks at, the raw operations
of the external interfaces, and the placing of a table row's unit for the next step. -/

namespace Sys2Proof.Machine

/-- The next operation and the state without it. -/
def State.fetch (s : State) : Option (Op × State) :=
  match s.inputs with
  | [] => none
  | op :: rest => some (op, { s with inputs := rest })

/-- An operation put before the pending ones. -/
def State.issue (s : State) (op : Op) : State := { s with inputs := op :: s.inputs }

/-- The context of the decoder: the sequencer positions of the three engines. -/
def State.ctx (s : State) : Ctx where
  variant := s.cfg.variant
  seq := s.flash.seq
  cs := s.eeprom.cs
  ck := s.eeprom.ck
  command := s.eeprom.command
  card := s.card.state
  phase := s.card.writePhase

/-- What an operation does at the external interface, whatever row it is: the spec's own description of
the interfaces (40_flash_store.md R140, 41_flash_read.md R180, 43_eeprom.md R220, 44_spi_card.md
R270). -/
def perform (op : Op) (s : State) : Result :=
  match op with
  | .flRead a => s.readCycle a
  | .flWrite a b rmw => if rmw then s.rmwCycle a b else s.storeCycle a b
  | .flPeek a => s.peek a
  | .flReset => .next (s.setFlash s.flash.hwReset)
  | .flTick => .next s.tick
  | .flExpire => .next s.expireStep
  | .flSave => .next s.snapshotSave
  | .flLoad major bytes => .next (s.snapshotLoad major bytes)
  | .flClearDirty => .next s.clearDirty
  | .eeSelect v => .next (s.setEeprom (s.eeprom.writeSelect v))
  | .eeClock v => .next (s.setEeprom (s.eeprom.writeClock v))
  | .eeData b => .next (s.setEeprom (s.eeprom.writeData b))
  | .eeReadData => .next (s.emit (.bit (s.eeprom.readData s.cfg.eeDoDeselected)))
  | .eeReset => .next (s.setEeprom s.eeprom.reset)
  | .eeFrame bits => .next (s.setEeprom (s.eeprom.clockBits bits))
  | .sdWrite b => .next (s.dataWrite b)
  | .sdRead => .next s.dataRead
  | .sdReset => .next (s.setCard SpiCard.powerOn)
  | .sdFrame bytes => .next (s.dataWrites bytes)

/-- The sequencer position a slot needs: the state of the row for a bus cycle; chip select asserted,
clock low and an empty input register for a run of bits; the block-write machine awaiting its token; an
empty framer outside a block write for a run of bytes. -/
def State.selectSlot (s : State) (p : TableSlot) : State :=
  match p with
  | .flash q _ _ => s.setFlash { s.flash with seq := q }
  | .eeprom _ =>
    s.setEeprom
      { s.eeprom with cs := true, ck := false, inSr := 0#29, inCnt := 0, command := .none }
  | .token _ => s.setCard { s.card with state := .write, writePhase := .waitToken }
  | .frame _ => s.setCard { s.card with state := .idle, cmdIdx := 0 }

end Sys2Proof.Machine
end

