-- ==== Sys2Proof/Machine/Step.lean ====
section
/-! DEFINITION. One step of the machine: the next operation the master issues is taken from the list,
decoded in the context it meets, and the row it selects is executed; an operation of no row is
performed as it stands. -/

namespace Sys2Proof.Machine

/-- One step. With no operation pending nobody acts and nothing changes (log 1). -/
def step (s : State) : Host.Outcome State Fault Refusal :=
  match s.fetch with
  | none => .next s
  | some (op, s1) =>
    match decode s1.ctx op with
    | .ok i => exec i s1
    | .error _ => perform op s1

/-- The state whose next operation is a table row's unit, with the sequencer position that selects the
row: the master's list is where the machine fetches, and the position is part of the selection
(log 14). A number that is no unit leaves the state as it is. -/
def State.withFetchWord (s : State) (nbits w : Nat) : State :=
  match tableSlot s.cfg.variant nbits w with
  | none => s
  | some p => (s.selectSlot p).issue (slotOp p)

end Sys2Proof.Machine
end

