-- ==== Sys2Proof/Safety.lean ====
section
/-! DEFINITION. What counts as a safe run and a sound state, in the terms the statements use: which
operations lie inside the interfaces' preconditions, the invariants that a run keeps, the positions from
which a frame is read, and the command buffer a frame leaves. -/

namespace Sys2Proof.Machine

/-! ## Safe operations and runs -/

/-- The precondition of an operation: a FlashChip address below SIZE (20_memory.md R84). Every other
operation has none (60_exceptions.md R330). -/
abbrev opInRange (v : Variant) (op : Op) : Prop :=
  match op with
  | .flRead a => a < v.size
  | .flWrite a _ _ => a < v.size
  | .flPeek a => a < v.size
  | .flReset | .flTick | .flExpire | .flSave | .flLoad _ _ | .flClearDirty | .eeSelect _ | .eeClock _
  | .eeData _ | .eeReadData | .eeReset | .eeFrame _ | .sdWrite _ | .sdRead | .sdReset | .sdFrame _ => True

/-- A state is safe when its step goes on: neither a refusal nor a fault. -/
def State.Safe (s : State) : Prop := ∃ t, step s = .next t

/-! ## The storage arrays -/

/-- Every array is in canonical form and lists only addresses it has (10_state.md R22, R40;
44_spi_card.md R274). -/
abbrev State.ArraysCanonical (s : State) : Prop :=
  (s.flash.data.wf = true ∧ s.flash.data.below s.cfg.variant.size = true)
  ∧ (s.eeprom.cells.wf = true ∧ s.eeprom.cells.below 2048 = true)
  ∧ (s.image.wf = true ∧ s.image.below s.cfg.imgLen = true)

/-! ## FlashChip -/

/-- The states a timer runs in (10_state.md R32). -/
def timed (q : FlashState) : Bool :=
  match q with
  | .chipErase | .sectorErase | .sectorEraseTimeout => true
  | .read | .unlock1 | .unlock2 | .autoselect | .byteProgram | .byteProgramError | .eraseUnlock1
  | .eraseUnlock2 | .eraseSelect | .sectorEraseSuspend => false

/-- The states with a queue of sectors (10_state.md R32). -/
def queued (q : FlashState) : Bool :=
  match q with
  | .sectorErase | .sectorEraseTimeout | .sectorEraseSuspend => true
  | .read | .unlock1 | .unlock2 | .autoselect | .byteProgram | .byteProgramError | .eraseUnlock1
  | .eraseUnlock2 | .eraseSelect | .chipErase => false

/-- What every run from construction keeps, as long as no snapshot is loaded (10_state.md R24, R25, R32;
60_exceptions.md R348): the resting point is `Read` or `Autoselect` and agrees with `state` there; a
timer is armed, for a later tick, exactly in the timed states; sectors are queued exactly in the sector
erase states, and only sectors the chip has. -/
abbrev State.FlashInv (s : State) : Prop :=
  s.cfg.wf = true
  ∧ (s.flash.baseState = .read ∨ s.flash.baseState = .autoselect)
  ∧ (s.flash.seq = .read → s.flash.baseState = .read)
  ∧ (s.flash.seq = .autoselect → s.flash.baseState = .autoselect)
  ∧ (s.flash.eraseTimer.isSome = timed s.flash.seq)
  ∧ (s.flash.eraseTimer.all (fun t => decide (s.clk < t)) = true)
  ∧ (s.flash.pending = 0#64 ↔ queued s.flash.seq = false)
  ∧ (∀ i < 64, s.flash.pending.getLsbD i = true → i < s.cfg.variant.size / s.cfg.variant.sectorSize)

/-! ## SerialEEPROM -/

/-- A READ is in progress. -/
def reading (c : EeCommand) : Bool :=
  match c with
  | .readAddrLatched | .readStreaming => true
  | .none | .read | .write | .erase | .writeAll | .eraseAll | .writeEnable | .writeDisable | .busy
  | .ready => false

/-- The position right after a command boundary, with the chip selected and the clock low: the next bit
is bit 1 of a frame (30_encoding.md R116, 43_eeprom.md R224). -/
abbrev SerialEeprom.AtBoundary (e : SerialEeprom) : Prop :=
  e.cs = true ∧ e.ck = false ∧ e.inSr = 0#29 ∧ e.inCnt = 0 ∧ reading e.command = false

/-- Which values `command` can have at a bit count (43_eeprom.md R229 to R232, R248 (d)). -/
def commandAt (n : Nat) (c : EeCommand) : Bool :=
  if n = 0 then !reading c
  else if n ≤ 2 then c == .none
  else if n ≤ 4 then c == .none || c == .read || c == .write || c == .erase
  else if n ≤ 12 then
    c == .read || c == .write || c == .erase || c == .writeAll || c == .eraseAll || c == .writeEnable
      || c == .writeDisable
  else if n = 13 then c == .write || c == .writeAll || reading c
  else if n ≤ 28 then c == .write || c == .writeAll
  else false

/-- What every operation keeps (43_eeprom.md R248 (d), (e); 10_state.md R42, R43). -/
abbrev SerialEeprom.Inv (e : SerialEeprom) : Prop :=
  commandAt e.inCnt e.command = true
  ∧ (e.inCnt = 0 → e.inSr = 0#29)
  ∧ (reading e.command = true → e.cs = true)
  ∧ e.outCnt < 16

/-! ## SpiMmcCard -/

/-- The card takes bytes as command bytes, and no frame has begun (44_spi_card.md R275, R277). -/
abbrev SpiCard.Listening (c : SpiCard) : Prop :=
  c.cmdIdx = 0 ∧ c.state ≠ .write ∧ c.state ≠ .dummyWrite

/-- The command buffer after a run of bytes from index 0: the bytes past the run are as before. -/
def frameBuffer (old : Vector Byte 9) (bytes : List Byte) : Vector Byte 9 :=
  Vector.ofFn fun i => bytes.getD i.val old[i]

/-- While a block's data arrive, the next byte lies in the block and the bytes before it are buffered
(44_spi_card.md R308). -/
def dataInBlock (c : SpiCard) : Bool :=
  match c.writePhase with
  | .data k => decide (k < c.blockSize.toNat) && decide (k ≤ c.writeBuffer.length)
  | .waitToken | .crc _ => true

/-- What every operation keeps (44_spi_card.md R278, R279, R293, R302, R303, R304, R308). -/
abbrev SpiCard.Inv (c : SpiCard) (cfg : Config) : Prop :=
  c.cmdIdx ≤ 8
  ∧ (2 ≤ c.cmdIdx → c.cmdBuf[1] ≠ 0xFF#8)
  ∧ (6 ≤ c.cmdIdx → frameNeed c.cmdBuf[1] = 9)
  ∧ (c.resp ≠ [] → c.state = .idle)
  ∧ (c.state = .read ∨ c.state = .dummyRead →
      c.readBuffer.length = c.blockSize.toNat ∧ c.readPos < streamLength cfg c.blockSize)
  ∧ (c.writePhase ≠ .waitToken → c.state = .write ∨ c.state = .dummyWrite)
  ∧ dataInBlock c = true

end Sys2Proof.Machine
end

