-- ==== Sys2Proof/Certificates/Slice0/Obligations.lean ====
section
/-! DEFINITION. The statements for the provers. A next state written as a record update of `s` says the
whole frame: every field not named there, of every engine, the platform and the lists, is unchanged.
Arrays are compared byte by byte through `Memory.read`. -/

open Sys2Proof Sys2Proof.Machine

/-! ## FlashChip write cycles -/

/-- 40_flash_store.md R141, R143, R167: the three unlock cycles move `state` and nothing else; `base_state`
is kept. -/
def Obligations.UnlockCycles : Prop :=
  ∀ (s : State) (a : Nat), a < s.cfg.variant.size →
    (s.flash.seq = .read → isM1 s.cfg.variant a = true →
      exec (.flUnlockA a) s = .next { s with flash := { s.flash with seq := .unlock1 } })
    ∧ (s.flash.seq = .unlock1 → isM2 s.cfg.variant a = true →
      exec (.flUnlockB a) s = .next { s with flash := { s.flash with seq := .unlock2 } })
    ∧ (s.flash.seq = .byteProgramError ∨ s.flash.seq = .autoselect →
        isM1 s.cfg.variant a = true →
      exec (.flReunlock a) s = .next { s with flash := { s.flash with seq := .unlock1 } })

/-- 40_flash_store.md R147, R148, R152, R154: the set-up cycles of a program and of an erase move `state`
and nothing else. -/
def Obligations.CommandSetUpCycles : Prop :=
  ∀ (s : State) (a : Nat), a < s.cfg.variant.size →
    (s.flash.seq = .unlock2 → isM1 s.cfg.variant a = true →
      exec (.flProgramSetup a) s = .next { s with flash := { s.flash with seq := .byteProgram } }
      ∧ exec (.flEraseSetup a) s = .next { s with flash := { s.flash with seq := .eraseUnlock1 } })
    ∧ (s.flash.seq = .eraseUnlock1 → isM1 s.cfg.variant a = true →
      exec (.flEraseUnlockA a) s = .next { s with flash := { s.flash with seq := .eraseUnlock2 } })
    ∧ (s.flash.seq = .eraseUnlock2 → isM2 s.cfg.variant a = true →
      exec (.flEraseUnlockB a) s = .next { s with flash := { s.flash with seq := .eraseSelect } })

/-- 40_flash_store.md R145, R146, R168: the commands that set the resting point. -/
def Obligations.RestingPointCommands : Prop :=
  ∀ (s : State) (a : Nat), a < s.cfg.variant.size →
    (s.flash.seq = .unlock2 → isM1 s.cfg.variant a = true →
      exec (.flAutoselect a) s =
        .next { s with flash := { s.flash with seq := .autoselect, baseState := .autoselect } }
      ∧ exec (.flResetLong a) s =
        .next { s with flash := { s.flash with seq := .read, baseState := .read } })
    ∧ (s.flash.seq = .byteProgramError ∨ s.flash.seq = .autoselect →
      exec (.flResetShort a) s =
        .next { s with flash := { s.flash with seq := .read, baseState := .read } })

/-- 40_flash_store.md R144, R153, R155, R161: a cycle that does not continue the sequence abandons it;
`state` falls back to `base_state` and nothing else changes. -/
def Obligations.SequenceAborts : Prop :=
  ∀ (s : State) (a : Nat) (b : Byte), a < s.cfg.variant.size →
    (s.flash.seq = .unlock1 → ¬(isM2 s.cfg.variant a = true ∧ b = 0x55#8) →
      exec (.flAbortUnlock1 a b) s =
        .next { s with flash := { s.flash with seq := s.flash.baseState } })
    ∧ (s.flash.seq = .eraseUnlock1 → ¬(isM1 s.cfg.variant a = true ∧ b = 0xAA#8) →
      exec (.flAbortEraseunlock1 a b) s =
        .next { s with flash := { s.flash with seq := s.flash.baseState } })
    ∧ (s.flash.seq = .eraseUnlock2 → ¬(isM2 s.cfg.variant a = true ∧ b = 0x55#8) →
      exec (.flAbortEraseunlock2 a b) s =
        .next { s with flash := { s.flash with seq := s.flash.baseState } })
    ∧ (s.flash.seq = .eraseSelect → b ≠ 0x30#8 → ¬(isM1 s.cfg.variant a = true ∧ b = 0x10#8) →
      exec (.flAbortEraseselect a b) s =
        .next { s with flash := { s.flash with seq := s.flash.baseState } })

/-- 40_flash_store.md R142, R149, R165, R166, R169, the spec's own decisions D5 and D6 of
92_eei_decisions.md and its derivation in R142: after an unlock a wrong byte or address falls back to
`base_state`; a cycle that `Read`, `ByteProgramError`, `Autoselect` or a running or suspended erase does
not take changes nothing. -/
def Obligations.UntakenCycles : Prop :=
  ∀ (s : State) (a : Nat) (b : Byte), a < s.cfg.variant.size →
    (s.flash.seq = .unlock2 →
        (isM1 s.cfg.variant a = false ∨
          (b ≠ 0x90#8 ∧ b ≠ 0xF0#8 ∧ b ≠ 0xA0#8 ∧ b ≠ 0x80#8)) →
      exec (.flAbortUnlock2 a b) s =
        .next { s with flash := { s.flash with seq := s.flash.baseState } })
    ∧ (s.flash.seq = .read → ¬(isM1 s.cfg.variant a = true ∧ b = 0xAA#8) →
      exec (.flIgnoreRead a b) s = .next s)
    ∧ ((s.flash.seq = .sectorErase ∧ b ≠ 0xB0#8) ∨
        (s.flash.seq = .sectorEraseSuspend ∧ b ≠ 0x30#8) →
      exec (.flIgnoreSectorerase a b) s = .next s)
    ∧ (s.flash.seq = .chipErase → exec (.flIgnoreChiperase a b) s = .next s)
    ∧ ((s.flash.seq = .byteProgramError ∨ s.flash.seq = .autoselect) →
        ¬(isM1 s.cfg.variant a = true ∧ b = 0xAA#8) → b ≠ 0xF0#8 →
      exec (.flIgnoreErrorAutoselect a b) s = .next s)

/-- 40_flash_store.md R150, R151: the data cycle stores `old & byte`, latches the byte, sets `dirty` and
ends in `ByteProgramError` exactly when the byte asks for a 1 where the array has a 0; no other byte of
the array changes. -/
def Obligations.ProgramDataCycle : Prop :=
  ∀ (s : State) (a : Nat) (b : Byte),
    s.flash.data.wf = true → a < s.cfg.variant.size → s.flash.seq = .byteProgram →
    ∃ data' : Memory,
      data'.wf = true
      ∧ (∀ x, data'.read x =
          if x = a then s.flash.data.read a &&& b else s.flash.data.read x)
      ∧ (∀ x, s.flash.data.read x &&& data'.read x = data'.read x)
      ∧ exec (.flProgramData a b) s =
          .next { s with flash := { s.flash with
            data := data'
            programByte := b
            dirty := true
            seq := if s.flash.data.read a &&& b = b then s.flash.baseState
              else .byteProgramError } }

/-- 10_state.md R33: no instruction but a tick, an expiry and a snapshot load ever sets a bit of the
array. The exception for the load is the model's reading of 10_state.md R22. -/
def Obligations.OnlyErasureSetsBits : Prop :=
  ∀ (i : Instr) (s t : State),
    s.flash.data.wf = true → exec i s = .next t →
    encode i ≠ .flTick → encode i ≠ .flExpire →
    (∀ (major : Nat) (bytes : List Byte), encode i ≠ .flLoad major bytes) →
    ∀ x, s.flash.data.read x &&& t.flash.data.read x = t.flash.data.read x

/-- 10_state.md R22 and 60_exceptions.md R338 (a): where the array can change at all. A read-modify-write
cycle can also start from `Unlock2`, when its glitch store is the program set-up. -/
def Obligations.WhereTheArrayChanges : Prop :=
  ∀ (i : Instr) (s t : State),
    (s.flash.baseState = .read ∨ s.flash.baseState = .autoselect) →
    exec i s = .next t → t.flash.data ≠ s.flash.data →
    (∃ a b, encode i = .flWrite a b false ∧ s.flash.seq = .byteProgram)
    ∨ (∃ a b, encode i = .flWrite a b true ∧
        (s.flash.seq = .byteProgram ∨ s.flash.seq = .unlock2))
    ∨ ((encode i = .flTick ∨ encode i = .flExpire) ∧
        (s.flash.seq = .sectorErase ∨ s.flash.seq = .chipErase))
    ∨ (∃ major bytes, encode i = .flLoad major bytes)

/-- 40_flash_store.md R156, R157, R158, the spec's own decisions D7 and D8: an accepted erase command
clears `program_byte` and arms the timer, a sector erase marks the sector of its address; no byte of the
array changes. -/
def Obligations.EraseCommands : Prop :=
  ∀ (s : State) (a : Nat), a < s.cfg.variant.size → s.flash.seq = .eraseSelect →
    (isM1 s.cfg.variant a = true →
      exec (.flChipErase a) s =
        .next { s with flash := { s.flash with
          seq := .chipErase
          programByte := 0x00#8
          eraseTimer := some (s.clk + s.cfg.tChipErase) } })
    ∧ exec (.flSectorErase a) s =
        .next { s with flash := { s.flash with
          seq := .sectorEraseTimeout
          programByte := 0x00#8
          pending := s.flash.pending |||
            (1#64 <<< ((a &&& s.cfg.variant.sectorMask) >>> s.cfg.variant.sectorShift))
          eraseTimer := some (s.clk + s.cfg.tSectorTimeout) } }

/-- 40_flash_store.md R158, R159, R160, R164, the spec's own decisions D8, D9 and D12: a further sector
leaves the timer running; any other byte cancels timer and queue; a resume arms a full duration. -/
def Obligations.EraseQueueCommands : Prop :=
  ∀ (s : State) (a : Nat) (b : Byte), a < s.cfg.variant.size →
    (s.flash.seq = .sectorEraseTimeout →
      exec (.flSectorAdd a) s =
        .next { s with flash := { s.flash with
          pending := s.flash.pending |||
            (1#64 <<< ((a &&& s.cfg.variant.sectorMask) >>> s.cfg.variant.sectorShift)) } })
    ∧ (s.flash.seq = .sectorEraseTimeout → b ≠ 0x30#8 →
      exec (.flEraseCancel a b) s =
        .next { s with flash := { s.flash with
          seq := s.flash.baseState, pending := 0#64, eraseTimer := none } })
    ∧ (s.flash.seq = .sectorEraseSuspend →
      exec (.flEraseResume a) s =
        .next { s with flash := { s.flash with
          seq := .sectorErase, eraseTimer := some (s.clk + s.cfg.tSectorErase) } })

/-- 40_flash_store.md R163: suspend cancels the timer and keeps the queue. -/
def Obligations.EraseSuspend : Prop :=
  ∀ (s : State) (a : Nat), a < s.cfg.variant.size → s.flash.seq = .sectorErase →
    exec (.flEraseSuspend a) s =
      .next { s with flash := { s.flash with seq := .sectorEraseSuspend, eraseTimer := none } }

/-- 40_flash_store.md R171, the spec's own decision D21: a read-modify-write cycle is the glitch store of
`last_read` and then the real store, each decoded where the one before left the sequencer, at one clock
value; in `ByteProgram` the glitch byte is programmed and the intended one is not. -/
def Obligations.ReadModifyWriteCycle : Prop :=
  (∀ (s : State) (a : Nat) (b : Byte), a < s.cfg.variant.size →
    ∃ u t : State,
      exec (decodeWrite s.cfg.variant s.flash.seq a s.flash.lastRead) s = .next u
      ∧ u.clk = s.clk
      ∧ exec (decodeWrite u.cfg.variant u.flash.seq a b) u = .next t
      ∧ exec (.flRmw a b) s = .next t)
  ∧ (∀ (s : State) (a : Nat) (b : Byte), a < s.cfg.variant.size →
    s.flash.data.wf = true → s.flash.seq = .byteProgram →
    (s.flash.baseState = .read ∨ s.flash.baseState = .autoselect) →
    ∃ t : State, exec (.flRmw a b) s = .next t
      ∧ t.flash.programByte = s.flash.lastRead
      ∧ ∀ x, t.flash.data.read x =
          if x = a then s.flash.data.read a &&& s.flash.lastRead else s.flash.data.read x)

/-! ## FlashChip read cycles -/

/-- 41_flash_read.md R180, R181, 20_memory.md R88, the spec's own decision D15 on which states read the
array: there the stored byte is returned and latched; and whatever a read cycle meets, it changes
`last_read`, the list of returned values and, in an erase state, `program_byte`, and nothing else. -/
def Obligations.ReadCycles : Prop :=
  (∀ (s : State) (a : Nat), a < s.cfg.variant.size →
    s.flash.seq ∈ [FlashState.read, .unlock1, .unlock2, .byteProgram, .eraseUnlock1, .eraseUnlock2,
      .eraseSelect] →
    exec (.flReadArray a) s =
      .next { s with
        flash := { s.flash with lastRead := s.flash.data.read a }
        outputs := s.outputs ++ [.byte (s.flash.data.read a)] })
  ∧ (∀ (i : Instr) (a : Nat) (s t : State), encode i = .flRead a → exec i s = .next t →
    t = { s with
      flash := { s.flash with lastRead := t.flash.lastRead, programByte := t.flash.programByte }
      outputs := s.outputs ++ [.byte t.flash.lastRead] }
    ∧ (inErase s.flash.seq = false → t.flash.programByte = s.flash.programByte))

/-- 41_flash_read.md R182 to R184, the spec's own decisions D16 and D17: the tests on the low byte of the
remapped address `a'` in their order, and the unremapped address on the fall-through. -/
def Obligations.AutoselectRead : Prop :=
  ∀ (s : State) (a a' : Nat), a < s.cfg.variant.size → s.flash.seq = .autoselect →
    (s.cfg.variant.a01Swap = false → a' = a) →
    (s.cfg.variant.a01Swap = true →
      a' / 4 = a / 4 ∧ a' % 4 = (s.cfg.variant.swap[a % 4]'(Nat.mod_lt a (by decide))).toNat) →
    ∃ v : Byte,
      exec (.flReadId a) s =
        .next { s with
          flash := { s.flash with lastRead := v }
          outputs := s.outputs ++ [.byte v] }
      ∧ (a' % 256 = 0 → v = s.cfg.variant.manufacturerId)
      ∧ (a' % 256 ≠ 0 → a' % 256 = s.cfg.variant.deviceIdAddr.toNat → v = s.cfg.variant.deviceId)
      ∧ (a' % 256 = 2 → a' % 256 ≠ s.cfg.variant.deviceIdAddr.toNat → v = 0x00#8)
      ∧ (a' % 256 ≠ 0 → a' % 256 ≠ 2 → a' % 256 ≠ s.cfg.variant.deviceIdAddr.toNat →
          v = s.flash.data.read a)

/-- 41_flash_read.md R186, R187, the spec's own decisions D18 to D20, and 10_state.md R34: the two status
bytes bit by bit, and the toggle an erase-status read leaves behind. -/
def Obligations.StatusReads : Prop :=
  (∀ (s : State) (a : Nat), a < s.cfg.variant.size → s.flash.seq = .byteProgramError →
    ∃ v : Byte,
      exec (.flReadPstatus a) s =
        .next { s with
          flash := { s.flash with lastRead := v }
          outputs := s.outputs ++ [.byte v] }
      ∧ v.getLsbD 7 = !s.flash.programByte.getLsbD 7
      ∧ v.getLsbD 6 = s.clk.testBit s.cfg.dq6ClkBit
      ∧ ∀ i < 6, v.getLsbD i = s.cfg.progStatusExtra.getLsbD i)
  ∧ (∀ (s : State) (a : Nat), a < s.cfg.variant.size →
    s.flash.seq ∈ [FlashState.chipErase, .sectorErase, .sectorEraseTimeout, .sectorEraseSuspend] →
    ∃ v : Byte,
      exec (.flReadEstatus a) s =
        .next { s with
          flash := { s.flash with
            lastRead := v
            programByte := s.flash.programByte ^^^ s.cfg.variant.statusToggleBits }
          outputs := s.outputs ++ [.byte v] }
      ∧ (s.flash.seq = .sectorEraseTimeout → v = s.flash.programByte)
      ∧ (s.flash.seq ≠ .sectorEraseTimeout →
          v.getLsbD 3 = true ∧ ∀ i, i ≠ 3 → v.getLsbD i = s.flash.programByte.getLsbD i))

/-- 41_flash_read.md R189, 20_memory.md R89, the spec's own decision D25: the alias read is an operation
without side effect, legal in every state; it returns the stored byte and writes no latch. -/
def Obligations.AliasRead : Prop :=
  ∀ (s : State) (a : Nat), a < s.cfg.variant.size →
    exec (.flPeek a) s =
      .next { s with outputs := s.outputs ++ [.byte (s.flash.data.read a)] }

/-- 60_exceptions.md R330 and 20_memory.md R84, the spec's own decision D4: every instruction goes on in
every state for every operand inside its precondition, and outside it there is no step. -/
def Obligations.CompletesInsideThePrecondition : Prop :=
  ∀ (i : Instr) (s : State),
    (i.addrInRange s.cfg.variant = true → ∃ t, exec i s = .next t)
    ∧ (∀ a, i.flashAddr = some a → s.cfg.variant.size ≤ a →
        exec i s = .refused (.flashAddressOutOfRange a))

/-! ## Reset, clock and timer -/

/-- 70_reset_and_hazards.md R362, R363, the spec's own decision D22: `reset()` from every state, twice as
once. -/
def Obligations.FlashReset : Prop :=
  ∀ s : State, ∃ t : State,
    t = { s with flash := { s.flash with
        seq := .read
        baseState := .read
        programByte := 0x00#8
        pending := 0#64
        eraseTimer := none } }
    ∧ exec .flHwReset s = .next t ∧ exec .flHwReset t = .next t

/-- 42_flash_erase_timer.md R200, R202, R203, the spec's own decisions D10 and D13: a tick that does not
reach the target only counts; the one that does, in `SectorEraseTimeout`, begins the sector erase. The
expiry offered as a step of its own does the same when the timer is due (log 13). -/
def Obligations.TickAndShortTimeout : Prop :=
  ∀ s : State,
    (s.flash.eraseTimer ≠ some (s.clk + 1) → exec .flTick s = .next { s with clk := s.clk + 1 })
    ∧ (s.flash.seq = .sectorEraseTimeout → s.flash.eraseTimer = some (s.clk + 1) →
      exec .flTick s =
        .next { s with
          clk := s.clk + 1
          flash := { s.flash with
            seq := .sectorErase, eraseTimer := some (s.clk + 1 + s.cfg.tSectorErase) } })
    ∧ (∀ t, s.flash.seq = .sectorEraseTimeout → s.flash.eraseTimer = some t → t ≤ s.clk →
      exec .flExpireTimeout s =
        .next { s with flash := { s.flash with
          seq := .sectorErase, eraseTimer := some (s.clk + s.cfg.tSectorErase) } })

/-- 42_flash_erase_timer.md R202, R204, the spec's own decisions D11, D13 and D14: the lowest queued sector is
popped and filled; the next one is timed, or the chip returns to `base_state`. The expiry as a step of its
own does the same when the timer is due (log 13). -/
def Obligations.SectorExpiry : Prop :=
  ∀ (s : State) (k : Nat), s.flash.data.wf = true → s.flash.seq = .sectorErase →
    k < 64 → s.flash.pending.getLsbD k = true → (∀ j < k, s.flash.pending.getLsbD j = false) →
    k <<< s.cfg.variant.sectorShift < s.cfg.variant.size →
    ∃ (data' : Memory) (rest : BitVec 64),
      data'.wf = true
      ∧ (∀ x, data'.read x =
          if k <<< s.cfg.variant.sectorShift ≤ x
              ∧ x < k <<< s.cfg.variant.sectorShift + s.cfg.variant.sectorSize
            then 0xFF#8 else s.flash.data.read x)
      ∧ (∀ j, rest.getLsbD j = (s.flash.pending.getLsbD j && decide (j ≠ k)))
      ∧ (s.flash.eraseTimer = some (s.clk + 1) →
        exec .flTick s =
          .next { s with
            clk := s.clk + 1
            flash := { s.flash with
              data := data'
              dirty := true
              pending := rest
              seq := if rest = 0#64 then s.flash.baseState else .sectorErase
              eraseTimer :=
                if rest = 0#64 then none else some (s.clk + 1 + s.cfg.tSectorErase) } })
      ∧ (∀ t, s.flash.eraseTimer = some t → t ≤ s.clk →
        exec .flExpireSector s =
          .next { s with flash := { s.flash with
            data := data'
            dirty := true
            pending := rest
            seq := if rest = 0#64 then s.flash.baseState else .sectorErase
            eraseTimer := if rest = 0#64 then none else some (s.clk + s.cfg.tSectorErase) } })

/-- 42_flash_erase_timer.md R202, R204, R205, the spec's own decisions D13 and D14: the tick that reaches the
target fills the whole chip, sets `dirty` and returns `state` to `base_state`, whatever is queued; the
expiry as a step of its own does the same when the timer is due (log 13). -/
def Obligations.ChipExpiry : Prop :=
  ∀ s : State, s.flash.data.wf = true → s.flash.seq = .chipErase →
    ∃ data' : Memory,
      data'.wf = true
      ∧ (∀ x, data'.read x = if x < s.cfg.variant.size then 0xFF#8 else s.flash.data.read x)
      ∧ (s.flash.eraseTimer = some (s.clk + 1) →
        exec .flTick s =
          .next { s with
            clk := s.clk + 1
            flash := { s.flash with
              data := data', dirty := true, seq := s.flash.baseState, eraseTimer := none } })
      ∧ (∀ t, s.flash.eraseTimer = some t → t ≤ s.clk →
        exec .flExpireChip s =
          .next { s with flash := { s.flash with
            data := data', dirty := true, seq := s.flash.baseState, eraseTimer := none } })

/-- 42_flash_erase_timer.md R204, R206, 60_exceptions.md R348: the expiries only a loaded snapshot can
bring about, and an expiry offered before its time (log 13). That the pop of a sector beyond the chip
leaves `dirty` as it is, is the model's choice (log 15). -/
def Obligations.OddExpiries : Prop :=
  (∀ s : State, timed s.flash.seq = false → s.flash.eraseTimer = some (s.clk + 1) →
    exec .flTick s =
      .next { s with clk := s.clk + 1, flash := { s.flash with eraseTimer := none } })
  ∧ (∀ (s : State) (t : Nat), s.flash.seq = .sectorErase → s.flash.pending = 0#64 →
    s.flash.eraseTimer = some t → t ≤ s.clk →
    exec .flExpireSector s =
      .next { s with flash := { s.flash with seq := s.flash.baseState, eraseTimer := none } })
  ∧ (∀ (s : State) (t k : Nat), s.flash.seq = .sectorErase →
    s.flash.eraseTimer = some t → t ≤ s.clk →
    k < 64 → s.flash.pending.getLsbD k = true → (∀ j < k, s.flash.pending.getLsbD j = false) →
    s.cfg.variant.size ≤ k <<< s.cfg.variant.sectorShift →
    ∃ rest : BitVec 64,
      (∀ j, rest.getLsbD j = (s.flash.pending.getLsbD j && decide (j ≠ k)))
      ∧ exec .flExpireSector s =
        .next { s with flash := { s.flash with
          pending := rest
          seq := if rest = 0#64 then s.flash.baseState else .sectorErase
          eraseTimer := if rest = 0#64 then none else some (s.clk + s.cfg.tSectorErase) } })
  ∧ (∀ (s : State) (i : Instr), i ∈ [Instr.flExpireTimeout, .flExpireSector, .flExpireChip] →
    (∀ t, s.flash.eraseTimer = some t → s.clk < t) → exec i s = .next s)

/-- 42_flash_erase_timer.md R205, R207, 70_reset_and_hazards.md R388, the spec's own decisions D13 (the expiry
runs inside its tick) and D14 (the fill sets `dirty`): a chip erase with `n + 1` ticks left shows no change
of the chip before the last of them, and after it every byte is 0xFF and the chip is at its resting
point. -/
def Obligations.ChipEraseEnds : Prop :=
  ∀ (s : State) (n : Nat) (rest : List Op),
    s.flash.seq = .chipErase → s.flash.eraseTimer = some (s.clk + (n + 1)) →
    s.inputs = List.replicate (n + 1) .flTick ++ rest →
    (∀ m ≤ n, ∃ u : State, Host.Core.run Sys2Proof.core m s = .next u ∧ u.flash = s.flash)
    ∧ ∃ t : State, Host.Core.run Sys2Proof.core (n + 1) s = .next t
      ∧ t.flash.seq = s.flash.baseState ∧ t.flash.eraseTimer = none ∧ t.flash.dirty = true
      ∧ t.clk = s.clk + (n + 1) ∧ t.inputs = rest
      ∧ ∀ x < s.cfg.variant.size, t.flash.data.read x = 0xFF#8

/-- 42_flash_erase_timer.md R203, R204, R207, the spec's own decisions D10 (the short timeout leads to the
sector erase), D11 (one sector at a time, the timer armed again) and D13: an erase of `n` queued sectors
ends `T_SECTOR_TIMEOUT + n * T_SECTOR_ERASE` ticks after its first command, the queued sectors erased and
every other byte as it was. The premise `FlashInv` holds the well-formedness of the variant, whose power
of two of sectors is the model's reading (log 27). -/
def Obligations.SectorEraseEnds : Prop :=
  ∀ (s : State) (n : Nat) (rest : List Op),
    s.FlashInv → s.flash.seq = .sectorEraseTimeout →
    s.flash.eraseTimer = some (s.clk + s.cfg.tSectorTimeout) →
    n = (List.range 64).countP (fun i => s.flash.pending.getLsbD i) →
    s.inputs = List.replicate (s.cfg.tSectorTimeout + n * s.cfg.tSectorErase) .flTick ++ rest →
    ∃ t : State,
      Host.Core.run Sys2Proof.core (s.cfg.tSectorTimeout + n * s.cfg.tSectorErase) s = .next t
      ∧ t.flash.seq = s.flash.baseState ∧ t.flash.eraseTimer = none ∧ t.flash.pending = 0#64
      ∧ t.inputs = rest
      ∧ ∀ x < s.cfg.variant.size, t.flash.data.read x =
          if s.flash.pending.getLsbD (x / s.cfg.variant.sectorSize) then 0xFF#8
          else s.flash.data.read x

/-! ## Snapshot -/

/-- 60_exceptions.md R345 to R347, 10_state.md R23, the spec's own decisions D24 and D27: the layout of the
saved bytes, the code of a state its place in the table of R23 (0 `Read` to 12 `SectorEraseSuspend`), and
nothing changes at a save; a load with another major version, another length or a state code above 12 is
an error to the caller and changes no state. -/
def Obligations.SnapshotSaveAndRejection : Prop :=
  ∀ codes : List FlashState,
  codes = [.read, .unlock1, .unlock2, .autoselect, .byteProgram, .byteProgramError, .eraseUnlock1,
    .eraseUnlock2, .eraseSelect, .chipErase, .sectorErase, .sectorEraseTimeout, .sectorEraseSuspend] →
  (∀ s : State, ∃ bytes : List Byte,
    exec .flSnapshotSave s = .next { s with outputs := s.outputs ++ [.snapshot bytes] }
    ∧ bytes.length = 12 + s.cfg.variant.size
    ∧ codes[(bytes.getD 0 0#8).toNat]? = some s.flash.seq
    ∧ codes[(bytes.getD 1 0#8).toNat]? = some s.flash.baseState
    ∧ bytes.getD 2 0#8 = s.flash.programByte
    ∧ (∀ i < 64, (bytes.getD (3 + i / 8) 0#8).getLsbD (i % 8) = s.flash.pending.getLsbD i)
    ∧ bytes.getD 11 0#8 = s.flash.lastRead
    ∧ ∀ x < s.cfg.variant.size, bytes.getD (12 + x) 0#8 = s.flash.data.read x)
  ∧ (∀ (s : State) (major : Nat) (bytes : List Byte),
    (major ≠ s.cfg.snapshotMajor ∨ bytes.length ≠ 12 + s.cfg.variant.size
      ∨ 12 < (bytes.getD 0 0#8).toNat ∨ 12 < (bytes.getD 1 0#8).toNat) →
    exec (.flSnapshotLoad major bytes) s =
      .next { s with outputs := s.outputs ++ [.loaded false] })

/-- 60_exceptions.md R345 to R347, R349, the spec's own decisions D24 and D27: what one chip saves another
of the same configuration loads: every saved field is restored, `dirty` is set and the timer takes a
full duration for the state loaded. -/
def Obligations.SnapshotRoundTrip : Prop :=
  ∀ s u : State, u.cfg = s.cfg → s.flash.data.wf = true →
    s.flash.data.below s.cfg.variant.size = true →
    ∃ bytes : List Byte,
      exec .flSnapshotSave s = .next { s with outputs := s.outputs ++ [.snapshot bytes] }
      ∧ exec (.flSnapshotLoad s.cfg.snapshotMajor bytes) u =
        .next { u with
          flash := { s.flash with
            dirty := true
            eraseTimer :=
              if s.flash.seq = .chipErase then some (u.clk + s.cfg.tChipErase)
              else if s.flash.seq = .sectorErase then some (u.clk + s.cfg.tSectorErase)
              else if s.flash.seq = .sectorEraseTimeout then some (u.clk + s.cfg.tSectorTimeout)
              else none }
          outputs := u.outputs ++ [.loaded true] }

/-! ## SerialEEPROM, line operations -/

/-- 43_eeprom.md R221: the data line is driven to a level, nothing else. -/
def Obligations.EepromDataLine : Prop :=
  ∀ (s : State) (b : Bool),
    exec (.eeDi b) s = .next { s with eeprom := { s.eeprom with di := b } }

/-- 43_eeprom.md R222, R224, R225, R246, R247, the spec's own decisions D37 to D40: the two chip select
edges, and the level of the data output, read without side effect. That a read's bit counter is cleared
at the falling edge follows 95_test_vectors.md V73 (log 16). -/
def Obligations.EepromSelectAndOutput : Prop :=
  ∀ s : State,
    (s.eeprom.cs = false →
      exec .eeCsRise s =
        .next { s with eeprom := { s.eeprom with
          cs := true
          inSr := if s.eeprom.ck then s.eeprom.inSr else 0#29
          inCnt := if s.eeprom.ck then s.eeprom.inCnt else 0 } })
    ∧ (s.eeprom.cs = true → reading s.eeprom.command = true →
      exec .eeCsFall s =
        .next { s with eeprom := { s.eeprom with
          cs := false, command := .none, inSr := 0#29, inCnt := 0, outCnt := 0, dout := false } })
    ∧ (s.eeprom.cs = true → s.eeprom.command = .busy →
      exec .eeCsFall s =
        .next { s with eeprom := { s.eeprom with cs := false, command := .ready } })
    ∧ (s.eeprom.cs = true → reading s.eeprom.command = false → s.eeprom.command ≠ .busy →
      exec .eeCsFall s = .next { s with eeprom := { s.eeprom with cs := false } })
    ∧ exec .eeDo s =
      .next { s with outputs := s.outputs ++ [.bit
        (if s.eeprom.cs = false then s.cfg.eeDoDeselected
         else if s.eeprom.command = .busy then false
         else if s.eeprom.command = .ready then true
         else s.eeprom.dout)] }

/-- 43_eeprom.md R226 to R233, R235 to R237, R241 to R244: a clock operation that is no rising edge of a
selected controller only stores the level; a rising edge outside a read shifts one bit in, and away from
the thresholds that is all. At the first bit a zero is discarded and a one ends the last command (the
spec's own decision D38), the third bit decides the class, the fifth the command of the extended class
(D33), the thirteenth takes the address and is the last of READ, WEN, WDS, ERAL and ERASE, the
twenty-ninth the last of WRITE and WRAL (D34, D35, D37). A frame issued as one unit is the run of its
single operations, which is the model's choice of a unit (log 11). -/
def Obligations.EepromClock : Prop :=
  (∀ (s : State) (v : Bool), ¬(s.eeprom.cs = true ∧ s.eeprom.ck = false ∧ v = true) →
    exec (.eeClk v) s = .next { s with eeprom := { s.eeprom with ck := v } })
  ∧ (∀ s : State, s.eeprom.AtBoundary →
    exec (.eeClk true) s =
      .next { s with eeprom := { s.eeprom with
        ck := true
        inSr := if s.eeprom.di then 1#29 else 0#29
        inCnt := if s.eeprom.di then 1 else 0
        command := if s.eeprom.di then .none else s.eeprom.command } })
  ∧ (∀ s : State, s.eeprom.cs = true → s.eeprom.ck = false → reading s.eeprom.command = false →
    ∃ (sr : BitVec 29) (a : BitVec 10) (d : BitVec 16),
      (sr.getLsbD 0 = s.eeprom.di ∧ ∀ i < 28, sr.getLsbD (i + 1) = s.eeprom.inSr.getLsbD i)
      ∧ (∀ i < 10, a.getLsbD i = sr.getLsbD i) ∧ (∀ i < 16, d.getLsbD i = sr.getLsbD i)
      ∧ (s.eeprom.inCnt ∉ [0, 2, 4, 12, 28] →
        exec (.eeClk true) s =
          .next { s with eeprom := { s.eeprom with
            ck := true, inSr := sr, inCnt := s.eeprom.inCnt + 1 } })
      ∧ (s.eeprom.inCnt = 0 →
        exec (.eeClk true) s =
          .next { s with eeprom := { s.eeprom with
            ck := true
            inSr := if s.eeprom.di then sr else 0#29
            inCnt := if s.eeprom.di then 1 else 0
            command := if s.eeprom.di then .none else s.eeprom.command } })
      ∧ (s.eeprom.inCnt = 2 →
        exec (.eeClk true) s =
          .next { s with eeprom := { s.eeprom with
            ck := true, inSr := sr, inCnt := 3
            command :=
              if sr.getLsbD 2 = true ∧ sr.getLsbD 1 = true ∧ sr.getLsbD 0 = false then .read
              else if sr.getLsbD 2 = true ∧ sr.getLsbD 1 = false ∧ sr.getLsbD 0 = true then .write
              else if sr.getLsbD 2 = true ∧ sr.getLsbD 1 = true ∧ sr.getLsbD 0 = true then .erase
              else s.eeprom.command } })
      ∧ (s.eeprom.inCnt = 4 →
        exec (.eeClk true) s =
          .next { s with eeprom := { s.eeprom with
            ck := true, inSr := sr, inCnt := 5
            command :=
              if s.eeprom.command ≠ .none then s.eeprom.command
              else if sr.getLsbD 1 then (if sr.getLsbD 0 then .writeEnable else .eraseAll)
              else (if sr.getLsbD 0 then .writeAll else .writeDisable) } })
      ∧ (s.eeprom.inCnt = 12 →
        (s.eeprom.command ∉ [.read, .writeEnable, .writeDisable, .eraseAll, .erase] →
          exec (.eeClk true) s =
            .next { s with eeprom := { s.eeprom with
              ck := true, inSr := sr, inCnt := 13, addr := a } })
        ∧ (s.eeprom.command = .read →
          exec (.eeClk true) s =
            .next { s with eeprom := { s.eeprom with
              ck := true, inSr := sr, inCnt := 13, addr := a
              command := .readAddrLatched, dout := false } })
        ∧ (s.eeprom.command = .writeEnable ∨ s.eeprom.command = .writeDisable →
          exec (.eeClk true) s =
            .next { s with eeprom := { s.eeprom with
              ck := true, inSr := 0#29, inCnt := 0, addr := a, command := .none
              wel := decide (s.eeprom.command = .writeEnable) } })
        ∧ (s.eeprom.command = .eraseAll ∨ s.eeprom.command = .erase → s.eeprom.wel = false →
          exec (.eeClk true) s =
            .next { s with eeprom := { s.eeprom with
              ck := true, inSr := 0#29, inCnt := 0, addr := a, command := .none } })
        ∧ (s.eeprom.command = .eraseAll ∨ s.eeprom.command = .erase → s.eeprom.wel = true →
            s.eeprom.cells.wf = true →
          ∃ cells' : Memory,
            cells'.wf = true
            ∧ (∀ x, cells'.read x =
                if (s.eeprom.command = .eraseAll ∧ x < 2048)
                    ∨ (s.eeprom.command = .erase ∧ (x = 2 * a.toNat ∨ x = 2 * a.toNat + 1))
                  then 0xFF#8 else s.eeprom.cells.read x)
            ∧ exec (.eeClk true) s =
              .next { s with eeprom := { s.eeprom with
                ck := true, inSr := 0#29, inCnt := 0, addr := a, cells := cells'
                command := if s.eeprom.command = .erase then .busy else .none } }))
      ∧ (s.eeprom.inCnt = 28 →
        (s.eeprom.command ∉ [.write, .writeAll] →
          exec (.eeClk true) s =
            .next { s with eeprom := { s.eeprom with ck := true, inSr := sr, inCnt := 29 } })
        ∧ (s.eeprom.command = .write ∨ s.eeprom.command = .writeAll → s.eeprom.wel = false →
          exec (.eeClk true) s =
            .next { s with eeprom := { s.eeprom with
              ck := true, inSr := 0#29, inCnt := 0, command := .none } })
        ∧ (s.eeprom.command = .write ∨ s.eeprom.command = .writeAll → s.eeprom.wel = true →
            s.eeprom.cells.wf = true →
          ∃ cells' : Memory,
            cells'.wf = true
            ∧ (∀ x, cells'.read x =
                if (s.eeprom.command = .writeAll ∧ x < 2048) ∨ x / 2 = s.eeprom.addr.toNat
                  then (if x % 2 = 0 then d.extractLsb' 8 8 else d.extractLsb' 0 8)
                  else s.eeprom.cells.read x)
            ∧ exec (.eeClk true) s =
              .next { s with eeprom := { s.eeprom with
                ck := true, inSr := 0#29, inCnt := 0, cells := cells', command := .busy } })))
  ∧ (∀ (s : State) (bits : List Bool) (rest : List Op),
    Host.Core.run Sys2Proof.core (3 * bits.length)
        { s with inputs :=
          bits.flatMap (fun b => [Op.eeData b, .eeClock true, .eeClock false]) ++ rest } =
      step { s with inputs := .eeFrame bits :: rest })

/-- 43_eeprom.md R239, R240, the spec's own decisions D36 and D41: the dummy edge loads the word, a
streaming edge shows its top bit, and the sixteenth moves on to the next address modulo 1024. -/
def Obligations.EepromReadEdges : Prop :=
  ∀ s : State, s.eeprom.cs = true → s.eeprom.ck = false →
    (s.eeprom.command = .readAddrLatched →
      ∃ w : BitVec 16,
        w.toNat = 256 * (s.eeprom.cells.read (2 * s.eeprom.addr.toNat)).toNat
          + (s.eeprom.cells.read (2 * s.eeprom.addr.toNat + 1)).toNat
        ∧ exec .eeDummyEdge s =
          .next { s with eeprom := { s.eeprom with
            ck := true, outSr := w, outCnt := 0, dout := false, command := .readStreaming } })
    ∧ (s.eeprom.command = .readStreaming → s.eeprom.outCnt < 15 →
      exec .eeStreamEdge s =
        .next { s with eeprom := { s.eeprom with
          ck := true
          dout := s.eeprom.outSr.getLsbD 15
          outSr := s.eeprom.outSr <<< 1
          outCnt := s.eeprom.outCnt + 1 } })
    ∧ (s.eeprom.command = .readStreaming → s.eeprom.outCnt = 15 →
      ∃ w : BitVec 16,
        w.toNat = 256 * (s.eeprom.cells.read (2 * ((s.eeprom.addr.toNat + 1) % 1024))).toNat
          + (s.eeprom.cells.read (2 * ((s.eeprom.addr.toNat + 1) % 1024) + 1)).toNat
        ∧ exec .eeStreamEdge s =
          .next { s with eeprom := { s.eeprom with
            ck := true
            dout := s.eeprom.outSr.getLsbD 15
            addr := s.eeprom.addr + 1#10
            outSr := w
            outCnt := 0 } })

/-! ## SerialEEPROM, frames -/

/-- 43_eeprom.md R232, R233, and R229 for the lone zero: a READ frame latches the address and waits for
the dummy edge; a zero where a start bit is expected is discarded. -/
def Obligations.EepromReadFrame : Prop :=
  ∀ (s : State) (a : BitVec 10), s.eeprom.AtBoundary →
    exec (.eeRead a) s =
      .next { s with eeprom := { s.eeprom with
        di := a.getLsbD 0
        inSr := (0b110#3 ++ a).zeroExtend 29
        inCnt := 13
        command := .readAddrLatched
        addr := a
        dout := false } }
    ∧ exec .eeZeroStart s = .next { s with eeprom := { s.eeprom with di := false } }

/-- 43_eeprom.md R235, R236: WEN sets the latch and WDS clears it, and both leave the controller idle. -/
def Obligations.EepromEnableFrames : Prop :=
  ∀ (s : State) (x : BitVec 8), s.eeprom.AtBoundary →
    exec (.eeWen x) s =
      .next { s with eeprom := { s.eeprom with
        di := x.getLsbD 0, inSr := 0#29, inCnt := 0, command := .none
        addr := 0b11#2 ++ x, wel := true } }
    ∧ exec (.eeWds x) s =
      .next { s with eeprom := { s.eeprom with
        di := x.getLsbD 0, inSr := 0#29, inCnt := 0, command := .none
        addr := 0b00#2 ++ x, wel := false } }

/-- 43_eeprom.md R241, R243, R245, the spec's own decisions D34, D35 and D37: with the latch set a WRITE
replaces one word, an ERASE makes it 0xFFFF, and both show `Busy`. -/
def Obligations.EepromWordFrames : Prop :=
  ∀ (s : State) (a : BitVec 10) (d : BitVec 16), s.eeprom.AtBoundary → s.eeprom.wel = true →
    s.eeprom.cells.wf = true →
    (∃ cells' : Memory,
      cells'.wf = true
      ∧ (∀ x, cells'.read x =
          if x = 2 * a.toNat then d.extractLsb' 8 8
          else if x = 2 * a.toNat + 1 then d.extractLsb' 0 8
          else s.eeprom.cells.read x)
      ∧ exec (.eeWrite a d) s =
        .next { s with eeprom := { s.eeprom with
          cells := cells'
          di := d.getLsbD 0, inSr := 0#29, inCnt := 0, command := .busy, addr := a } })
    ∧ (∃ cells' : Memory,
      cells'.wf = true
      ∧ (∀ x, cells'.read x =
          if x = 2 * a.toNat ∨ x = 2 * a.toNat + 1 then 0xFF#8 else s.eeprom.cells.read x)
      ∧ exec (.eeErase a) s =
        .next { s with eeprom := { s.eeprom with
          cells := cells'
          di := a.getLsbD 0, inSr := 0#29, inCnt := 0, command := .busy, addr := a } })

/-- 43_eeprom.md R237, R242, R245, the spec's own decisions D35, D37 and D45: with the latch set WRAL
writes every word and shows `Busy`; ERAL erases every byte and is idle at once. -/
def Obligations.EepromWholeArrayFrames : Prop :=
  ∀ (s : State) (x : BitVec 8) (d : BitVec 16), s.eeprom.AtBoundary → s.eeprom.wel = true →
    s.eeprom.cells.wf = true →
    (∃ cells' : Memory,
      cells'.wf = true
      ∧ (∀ y, cells'.read y =
          if 2048 ≤ y then s.eeprom.cells.read y
          else if y % 2 = 0 then d.extractLsb' 8 8 else d.extractLsb' 0 8)
      ∧ exec (.eeWral x d) s =
        .next { s with eeprom := { s.eeprom with
          cells := cells'
          di := d.getLsbD 0, inSr := 0#29, inCnt := 0, command := .busy
          addr := 0b01#2 ++ x } })
    ∧ (∃ cells' : Memory,
      cells'.wf = true
      ∧ (∀ y, cells'.read y = if 2048 ≤ y then s.eeprom.cells.read y else 0xFF#8)
      ∧ exec (.eeEral x) s =
        .next { s with eeprom := { s.eeprom with
          cells := cells'
          di := x.getLsbD 0, inSr := 0#29, inCnt := 0, command := .none
          addr := 0b10#2 ++ x } })

/-- 43_eeprom.md R244, the spec's own decision D37: without the latch the four commands that would change
cells change none and leave the controller idle, with no `Busy`. -/
def Obligations.EepromRejectedFrames : Prop :=
  ∀ (s : State) (a : BitVec 10) (x : BitVec 8) (d : BitVec 16), s.eeprom.AtBoundary →
    s.eeprom.wel = false →
    exec (.eeWrite a d) s =
      .next { s with eeprom := { s.eeprom with
        di := d.getLsbD 0, inSr := 0#29, inCnt := 0, command := .none, addr := a } }
    ∧ exec (.eeErase a) s =
      .next { s with eeprom := { s.eeprom with
        di := a.getLsbD 0, inSr := 0#29, inCnt := 0, command := .none, addr := a } }
    ∧ exec (.eeWral x d) s =
      .next { s with eeprom := { s.eeprom with
        di := d.getLsbD 0, inSr := 0#29, inCnt := 0, command := .none, addr := 0b01#2 ++ x } }
    ∧ exec (.eeEral x) s =
      .next { s with eeprom := { s.eeprom with
        di := x.getLsbD 0, inSr := 0#29, inCnt := 0, command := .none, addr := 0b10#2 ++ x } }

/-- 43_eeprom.md R248 (a) to (c): no operation but a whole frame can change a cell or the latch except a
rising clock edge of the selected controller; a cell changes only with the latch set, and the latch only
at the thirteenth bit of WEN or WDS. -/
def Obligations.EepromWriteGate : Prop :=
  ∀ (op : Op) (s t : State), (∀ bits, op ≠ .eeFrame bits) → perform op s = .next t →
    (t.eeprom.cells ≠ s.eeprom.cells →
      op = .eeClock true ∧ s.eeprom.cs = true ∧ s.eeprom.ck = false ∧ s.eeprom.wel = true)
    ∧ (t.eeprom.wel ≠ s.eeprom.wel →
      op = .eeClock true ∧ s.eeprom.cs = true ∧ s.eeprom.ck = false ∧ s.eeprom.inCnt = 12
      ∧ ((s.eeprom.command = .writeEnable ∧ t.eeprom.wel = true)
        ∨ (s.eeprom.command = .writeDisable ∧ t.eeprom.wel = false)))

/-! ## SpiMmcCard, commands -/

/-- 44_spi_card.md R277 to R279, the spec's own decisions D50 to D52: before the sync byte everything is
dropped, a repeated sync byte is absorbed, and other bytes are buffered up to the command's length. A run
of bytes issued as one unit is the run of its single bytes, in every state, which is the model's choice of
a unit (log 11). -/
def Obligations.CardFramer : Prop :=
  (∀ (s : State) (b : Byte), s.card.state ≠ .write → s.card.state ≠ .dummyWrite →
    (s.card.cmdIdx = 0 → b ≠ 0xFF#8 → perform (.sdWrite b) s = .next s)
    ∧ (s.card.cmdIdx = 0 → b = 0xFF#8 →
      perform (.sdWrite b) s =
        .next { s with card := { s.card with
          cmdBuf := s.card.cmdBuf.set 0 0xFF#8, cmdIdx := 1 } })
    ∧ (s.card.cmdIdx = 1 → b = 0xFF#8 → perform (.sdWrite b) s = .next s)
    ∧ (∀ k : Fin 9, s.card.cmdIdx = k.val → k.val ≠ 0 → (k.val = 1 → b ≠ 0xFF#8) →
      (k.val < 5 ∨ (k.val < 8 ∧
        (s.card.cmdBuf[1] = 0x48#8 ∨ s.card.cmdBuf[1] = 0x49#8 ∨ s.card.cmdBuf[1] = 0x4A#8
          ∨ s.card.cmdBuf[1] = 0x50#8))) →
      perform (.sdWrite b) s =
        .next { s with card := { s.card with
          cmdBuf := s.card.cmdBuf.set k.val b, cmdIdx := k.val + 1 } }))
  ∧ (∀ (s : State) (bytes : List Byte) (rest : List Op),
    Host.Core.run Sys2Proof.core bytes.length { s with inputs := bytes.map .sdWrite ++ rest } =
      step { s with inputs := .sdFrame bytes :: rest })

/-- 44_spi_card.md R280 to R283, R288, R289, the spec's own decisions D53, D54, D64, D65 and D68: the
commands that only move the card's own state; an unread response is discarded. CMD0 gives the power-on state
of 10_state.md R60 but for `Reset(0)`, the command buffer zeroed with it (log 29). -/
def Obligations.CardStateCommands : Prop :=
  ∀ (s : State) (arg : BitVec 32) (c crc : Byte) (x : BitVec 16), s.card.Listening →
    exec (.sdCmd0 arg) s =
      .next { s with card :=
        { cmdBuf := Vector.replicate 9 0x00#8, cmdIdx := 0, state := .reset 0, blockSize := 512#32
          imageCursor := 0#64, readBuffer := [], readPos := 0, writeBuffer := []
          writePhase := .waitToken, resp := [] } }
    ∧ exec (.sdCmd1 arg) s =
      .next { s with card := { s.card with
        cmdBuf := frameBuffer s.card.cmdBuf ([0xFF#8, 0x41#8] ++ argBytes arg)
        resp := [], state := .init } }
    ∧ exec (.sdCmd12 arg) s =
      .next { s with card := { s.card with
        cmdBuf := frameBuffer s.card.cmdBuf ([0xFF#8, 0x4C#8] ++ argBytes arg)
        resp := [], state := .idle } }
    ∧ exec (.sdCmd16 arg crc x) s =
      .next { s with card := { s.card with
        cmdBuf := frameBuffer s.card.cmdBuf
          ([0xFF#8, 0x50#8] ++ argBytes arg ++ [crc, x.extractLsb' 8 8, x.extractLsb' 0 8])
        resp := [], blockSize := arg, state := .idle } }
    ∧ (c ∉ knownCommands → c ≠ 0xFF#8 →
      exec (.sdUnknown c arg) s =
        .next { s with card := { s.card with
          cmdBuf := frameBuffer s.card.cmdBuf ([0xFF#8, c] ++ argBytes arg)
          resp := [], state := .idle } })

/-- 44_spi_card.md R284 to R286, R293, R295 to R297, 00_scope.md R14, the spec's own decisions D54 and D58:
the canned responses of the effective card kind, whatever bytes the parameters give, and the zero block
of a register read without a card. -/
def Obligations.CardCannedResponses : Prop :=
  ∀ (s : State) (arg : BitVec 32) (crc : Byte) (x : BitVec 16), s.card.Listening →
    exec (.sdCmd8 arg crc x) s =
      .next { s with card := { s.card with
        cmdBuf := frameBuffer s.card.cmdBuf
          ([0xFF#8, 0x48#8] ++ argBytes arg ++ [crc, x.extractLsb' 8 8, x.extractLsb' 0 8])
        resp := respFor s.cfg.respCmd8 (effectiveKind s.cfg), state := .idle } }
    ∧ exec (.sdAcmd41 arg) s =
      .next { s with card := { s.card with
        cmdBuf := frameBuffer s.card.cmdBuf ([0xFF#8, 0x69#8] ++ argBytes arg)
        resp := respFor s.cfg.respAcmd41 (effectiveKind s.cfg), state := .idle } }
    ∧ exec (.sdCmd55 arg) s =
      .next { s with card := { s.card with
        cmdBuf := frameBuffer s.card.cmdBuf ([0xFF#8, 0x77#8] ++ argBytes arg)
        resp := respFor s.cfg.respCmd55 (effectiveKind s.cfg), state := .idle } }
    ∧ exec (.sdCmd58 arg) s =
      .next { s with card := { s.card with
        cmdBuf := frameBuffer s.card.cmdBuf ([0xFF#8, 0x7A#8] ++ argBytes arg)
        resp := respFor s.cfg.respCmd58 (effectiveKind s.cfg), state := .idle } }
    ∧ (s.cfg.cardPresent = true →
      exec (.sdCmd9 arg crc x) s =
        .next { s with card := { s.card with
          cmdBuf := frameBuffer s.card.cmdBuf
            ([0xFF#8, 0x49#8] ++ argBytes arg ++ [crc, x.extractLsb' 8 8, x.extractLsb' 0 8])
          resp := respFor s.cfg.respCmd9 (effectiveKind s.cfg), state := .idle } }
      ∧ exec (.sdCmd10 arg crc x) s =
        .next { s with card := { s.card with
          cmdBuf := frameBuffer s.card.cmdBuf
            ([0xFF#8, 0x4A#8] ++ argBytes arg ++ [crc, x.extractLsb' 8 8, x.extractLsb' 0 8])
          resp := respFor s.cfg.respCmd10 (effectiveKind s.cfg), state := .idle } })
    ∧ (s.cfg.cardPresent = false →
      exec (.sdCmd9 arg crc x) s =
        .next { s with card := { s.card with
          cmdBuf := frameBuffer s.card.cmdBuf
            ([0xFF#8, 0x49#8] ++ argBytes arg ++ [crc, x.extractLsb' 8 8, x.extractLsb' 0 8])
          resp := [], readBuffer := List.replicate s.card.blockSize.toNat 0x00#8
          readPos := 0, state := .dummyRead } }
      ∧ exec (.sdCmd10 arg crc x) s =
        .next { s with card := { s.card with
          cmdBuf := frameBuffer s.card.cmdBuf
            ([0xFF#8, 0x4A#8] ++ argBytes arg ++ [crc, x.extractLsb' 8 8, x.extractLsb' 0 8])
          resp := [], readBuffer := List.replicate s.card.blockSize.toNat 0x00#8
          readPos := 0, state := .dummyRead } })

/-- 44_spi_card.md R274, R291, R292, the spec's own decisions D58, D59 and D63: the block at the argument,
times 512 for SDHC, when a card is present, the seek and the read succeed and the block lies in the image;
zeros in every other case. Which calls of the image fail is the model's list `ioFail`, of which a call
takes the first answer, none left meaning success (log 17); at a target exactly at the end of the image the
seek succeeds and the read of a byte fails (log 28). -/
def Obligations.CardReadBlock : Prop :=
  ∀ (s : State) (arg : BitVec 32) (a : Nat), s.card.Listening →
    a = (if effectiveKind s.cfg = .sdhc then arg.toNat * 512 else arg.toNat) →
    ∃ (buf : Vector Byte 9) (zeros block : List Byte),
      buf = frameBuffer s.card.cmdBuf ([0xFF#8, 0x51#8] ++ argBytes arg)
      ∧ zeros = List.replicate s.card.blockSize.toNat 0x00#8
      ∧ block.length = s.card.blockSize.toNat
      ∧ (∀ i < s.card.blockSize.toNat, block.getD i 0#8 = s.image.read (a + i))
      ∧ (s.cfg.cardPresent = true → s.ioFail.getD 0 false = false → s.ioFail.getD 1 false = false →
          a + s.card.blockSize.toNat ≤ s.cfg.imgLen →
        exec (.sdCmd17 arg) s =
          .next { s with
            ioFail := s.ioFail.drop 2
            card := { s.card with
              cmdBuf := buf, resp := [], imageCursor := BitVec.ofNat 64 a
              readBuffer := block, readPos := 0, state := .read } })
      ∧ (s.cfg.cardPresent = false →
        exec (.sdCmd17 arg) s =
          .next { s with card := { s.card with
            cmdBuf := buf, resp := [], imageCursor := BitVec.ofNat 64 a
            readBuffer := zeros, readPos := 0, state := .dummyRead } })
      ∧ (s.cfg.cardPresent = true → (s.ioFail.getD 0 false = true ∨ s.cfg.imgLen < a) →
        exec (.sdCmd17 arg) s =
          .next { s with
            ioFail := s.ioFail.drop 1
            card := { s.card with
              cmdBuf := buf, resp := [], imageCursor := BitVec.ofNat 64 a
              readBuffer := zeros, readPos := 0, state := .dummyRead } })
      ∧ (s.cfg.cardPresent = true → s.ioFail.getD 0 false = false → a ≤ s.cfg.imgLen →
          (s.ioFail.getD 1 false = true ∨ s.cfg.imgLen < a + s.card.blockSize.toNat) →
        exec (.sdCmd17 arg) s =
          .next { s with
            ioFail := s.ioFail.drop 2
            card := { s.card with
              cmdBuf := buf, resp := [], imageCursor := BitVec.ofNat 64 a
              readBuffer := zeros, readPos := 0, state := .dummyRead } })

/-- 44_spi_card.md R274, R291, R294, the spec's own decisions D59, D61 and D63: CMD24 only seeks; write
protection is not consulted. Whether the seek fails is the first answer of the model's list `ioFail`, none
left meaning success (log 17); at a target exactly at the end of the image it succeeds, as R274 says, where
70_reset_and_hazards.md R386 speaks of the dummy variants (log 28). -/
def Obligations.CardWriteCommand : Prop :=
  ∀ (s : State) (arg : BitVec 32) (a : Nat), s.card.Listening →
    a = (if effectiveKind s.cfg = .sdhc then arg.toNat * 512 else arg.toNat) →
    (s.cfg.cardPresent = true →
      exec (.sdCmd24 arg) s =
        .next { s with
          ioFail := s.ioFail.drop 1
          card := { s.card with
            cmdBuf := frameBuffer s.card.cmdBuf ([0xFF#8, 0x58#8] ++ argBytes arg)
            resp := [], imageCursor := BitVec.ofNat 64 a, writePhase := .waitToken
            state := if s.ioFail.getD 0 false = false ∧ a ≤ s.cfg.imgLen then .write
              else .dummyWrite } })
    ∧ (s.cfg.cardPresent = false →
      exec (.sdCmd24 arg) s =
        .next { s with card := { s.card with
          cmdBuf := frameBuffer s.card.cmdBuf ([0xFF#8, 0x58#8] ++ argBytes arg)
          resp := [], imageCursor := BitVec.ofNat 64 a, writePhase := .waitToken
          state := .dummyWrite } })

/-! ## SpiMmcCard, bytes -/

/-- 44_spi_card.md R307 to R309, the spec's own decisions D62 and D63: the token opens the block, the bytes
fill it, and the last one writes it to the image at once, in `Write` with a card; a write that fails or
leaves the image is ignored and changes no byte of it. The frame of the image is said byte by byte.
Whether the write fails is the first answer of the model's list `ioFail`, none left meaning success
(log 17). -/
def Obligations.CardBlockBytes : Prop :=
  (∀ s : State, s.card.state = .write ∨ s.card.state = .dummyWrite →
    s.card.writePhase = .waitToken →
    exec .sdWtoken s =
      .next { s with
        ioFail :=
          if s.card.blockSize = 0#32 ∧ s.card.state = .write ∧ s.cfg.cardPresent = true
            then s.ioFail.drop 1 else s.ioFail
        card := { s.card with
          writePhase := if s.card.blockSize = 0#32 then .crc 0 else .data 0 } })
  ∧ (∀ (s : State) (b : Byte) (k : Nat), s.card.state = .write ∨ s.card.state = .dummyWrite →
    s.card.writePhase = .data k → k ≤ s.card.writeBuffer.length → s.image.wf = true →
    ∃ (buf : List Byte) (image' : Memory),
      (∀ j, buf.getD j 0#8 = if j = k then b else s.card.writeBuffer.getD j 0#8)
      ∧ image'.wf = true
      ∧ (∀ x, image'.read x =
          if s.card.imageCursor.toNat ≤ x ∧ x < s.card.imageCursor.toNat + (k + 1)
            then buf.getD (x - s.card.imageCursor.toNat) 0#8 else s.image.read x)
      ∧ (k + 1 ≠ s.card.blockSize.toNat →
        exec (.sdWdata b) s =
          .next { s with card := { s.card with
            writeBuffer := buf, writePhase := .data (k + 1) } })
      ∧ (k + 1 = s.card.blockSize.toNat → s.card.state = .write → s.cfg.cardPresent = true →
          s.ioFail.getD 0 false = false → s.card.imageCursor.toNat + (k + 1) ≤ s.cfg.imgLen →
        exec (.sdWdata b) s =
          .next { s with
            image := image'
            ioFail := s.ioFail.drop 1
            card := { s.card with writeBuffer := buf, writePhase := .crc 0 } })
      ∧ (k + 1 = s.card.blockSize.toNat → s.card.state = .write → s.cfg.cardPresent = true →
          (s.ioFail.getD 0 false = true ∨ s.cfg.imgLen < s.card.imageCursor.toNat + (k + 1)) →
        exec (.sdWdata b) s =
          .next { s with
            ioFail := s.ioFail.drop 1
            card := { s.card with writeBuffer := buf, writePhase := .crc 0 } })
      ∧ (k + 1 = s.card.blockSize.toNat →
          (s.card.state = .dummyWrite ∨ s.cfg.cardPresent = false) →
        exec (.sdWdata b) s =
          .next { s with card := { s.card with writeBuffer := buf, writePhase := .crc 0 } }))

/-- 44_spi_card.md R299, R310: the two CRC bytes are ignored, the second ends in `ReturnWrite`, and the next
read there gives 0xFF once and reverts to `Idle`. -/
def Obligations.CardCrcAndReturn : Prop :=
  ∀ (s : State) (b : Byte),
    ((s.card.state = .write ∨ s.card.state = .dummyWrite) → s.card.writePhase = .crc 0 →
      exec (.sdWcrc b) s = .next { s with card := { s.card with writePhase := .crc 1 } })
    ∧ ((s.card.state = .write ∨ s.card.state = .dummyWrite) → s.card.writePhase = .crc 1 →
      exec (.sdWcrc b) s =
        .next { s with card := { s.card with writePhase := .waitToken, state := .returnWrite } })
    ∧ (s.card.state = .returnWrite →
      exec .sdRxReturnwrite s =
        .next { s with
          card := { s.card with state := .idle }
          outputs := s.outputs ++ [.byte 0xFF#8] })

/-- 44_spi_card.md R300, R301, R304, the spec's own decisions D55 and D56: the six reset bytes, the byte of
`Init`, and the response queue, empty as 0x00. -/
def Obligations.CardStatusReads : Prop :=
  ∀ s : State,
    (∀ step : Fin 6, s.card.state = .reset step →
      exec .sdRxReset s =
        .next { s with
          card := { s.card with
            state := if h : step.val + 1 < 6 then .reset ⟨step.val + 1, h⟩ else .idle }
          outputs := s.outputs ++
            [.byte ([0x00#8, 0x01#8, 0x01#8, 0x00#8, 0x01#8, 0x01#8].getD step.val 0#8)] })
    ∧ (s.card.state = .init →
      exec .sdRxInit s =
        .next { s with
          card := { s.card with state := .idle }
          outputs := s.outputs ++ [.byte 0x00#8] })
    ∧ (s.card.state = .idle ∨ s.card.state = .write ∨ s.card.state = .dummyWrite →
      exec .sdRxIdle s =
        .next { s with
          card := { s.card with resp := s.card.resp.drop 1 }
          outputs := s.outputs ++ [.byte (s.card.resp.getD 0 0x00#8)] })

/-- 44_spi_card.md R302, R303, the spec's own decision D57: the preamble, the block and the trailer of the
trigger mode, and the position that stops at the last trailer byte. -/
def Obligations.CardStreamRead : Prop :=
  ∀ (s : State) (h : Nat) (tr : List Byte),
    s.card.state = .read ∨ s.card.state = .dummyRead →
    s.card.readBuffer.length = s.card.blockSize.toNat →
    (s.cfg.triggerMode = .readTrigger → h = 3 ∧ tr = s.cfg.trailerRt.toList) →
    (s.cfg.triggerMode = .writeTrigger → h = 2 ∧ tr = s.cfg.trailerWt.toList) →
    s.card.readPos < h + s.card.blockSize.toNat + tr.length →
    ∃ v : Byte,
      v = ([0xFF#8, 0xFE#8, 0xFE#8].take h ++ s.card.readBuffer ++ tr).getD s.card.readPos 0#8
      ∧ exec .sdRxStream s =
        .next { s with
          card := { s.card with
            readPos := if s.card.readPos + 1 < h + s.card.blockSize.toNat + tr.length
              then s.card.readPos + 1 else s.card.readPos }
          outputs := s.outputs ++ [.byte v] }

/-- 70_reset_and_hazards.md R365, R366, 10_state.md R48, R60, the spec's own decisions D42 and D66: the
EEPROM's `reset()` keeps the cells, the latch and the lines; the card's gives the power-on state from
every state, a block write included, and the image stays. -/
def Obligations.SerialEngineResets : Prop :=
  ∀ s : State,
    exec .eeReset s =
      .next { s with eeprom := { s.eeprom with
        inSr := 0#29, inCnt := 0, outSr := 0#16, outCnt := 0, command := .none, addr := 0#10 } }
    ∧ exec .sdReset s =
      .next { s with card :=
        { cmdBuf := Vector.replicate 9 0x00#8, cmdIdx := 0, state := .idle, blockSize := 512#32,
          imageCursor := 0#64, readBuffer := [], readPos := 0, writeBuffer := [],
          writePhase := .waitToken, resp := [] } }

/-- 60_exceptions.md R338 (c), 44_spi_card.md R274, R309: no operation but a whole frame can change the image
except the last data byte of a block in `Write` with a card, and only where the whole block lies in the
image; so a target at or beyond the end changes no byte of it (log 28). -/
def Obligations.CardImageGate : Prop :=
  ∀ (op : Op) (s t : State), (∀ bytes, op ≠ .sdFrame bytes) → perform op s = .next t →
    t.image ≠ s.image →
    (∃ b k, op = .sdWrite b ∧ s.card.writePhase = .data k ∧ k + 1 = s.card.blockSize.toNat)
    ∧ s.card.state = .write ∧ s.cfg.cardPresent = true
    ∧ s.card.imageCursor.toNat + s.card.blockSize.toNat ≤ s.cfg.imgLen

/-! ## Decoding and stepping -/

/-- 30_encoding.md R111, 10_state.md R21: a step takes the master's next operation, and where it selects a
row in the sequencer positions it meets, the step is that instruction at the state without the operation;
an operation of no row is performed as it stands, and with none pending nothing happens (log 1, log 12). -/
def Obligations.StepRunsTheDecodedInstruction : Prop :=
  ∀ s : State,
    (s.inputs = [] → step s = .next s)
    ∧ (∀ (op : Op) (rest : List Op) (i : Instr), s.inputs = op :: rest → decode s.ctx op = .ok i →
      step s = exec i { s with inputs := rest })
    ∧ (∀ (op : Op) (rest : List Op) (r : NoRow), s.inputs = op :: rest → decode s.ctx op = .error r →
      step s = perform op { s with inputs := rest })

/-- 40_flash_store.md R140, 41_flash_read.md R180, 43_eeprom.md R220, 44_spi_card.md R270: the table of rows
is a faithful partition of what the interfaces do: decoding an operation and executing its row is the
operation itself, in every state. -/
def Obligations.StepPerformsTheOperation : Prop :=
  ∀ (s : State) (op : Op) (rest : List Op), s.inputs = op :: rest →
    step s = perform op { s with inputs := rest }

/-- 30_encoding.md R111, R117, R122: every well-formed instruction, in every position of the sequencers that
selects it, is decoded from its encoding with every operand as it was. -/
def Obligations.DecodeInvertsEncode : Prop :=
  ∀ (c : Ctx) (i : Instr), i.wf c.variant = true → i.selectedIn c = true →
    decode c (encode i) = .ok i

/-- 30_encoding.md R111, R115, R119: the decoder answers with no other row than the one whose encoding it
was given, whose tests hold and whose position it is in; so no operation selects two rows. -/
def Obligations.DecodeIsSound : Prop :=
  ∀ (c : Ctx) (op : Op) (i : Instr), decode c op = .ok i →
    encode i = op ∧ i.selectedIn c = true ∧ i.rowTest c.variant = true

/-- 30_encoding.md R111, R117, R122 and 43_eeprom.md R233, R235, 44_spi_card.md R289, R292: a few units written
out from the spec's encodings. The magic addresses of the two flash cycles are those of the 29F040 row of
93_implementation_defined.md G1, presumed from general knowledge (log 4). -/
def Obligations.DecodeExamples : Prop :=
  decodeWrite Variant.v29F040 .unlock2 0x5555 0xA0#8 = .flProgramSetup 0x5555
  ∧ decodeWrite Variant.v29F040 .unlock1 0x7AAAA 0x55#8 = .flUnlockB 0x7AAAA
  ∧ decodeBits [true, false, false, true, true, false, false, false, false, false, false, false, true]
      = .ok (.eeWen 0x01#8)
  ∧ decodeBits [true, true, false, true, false, false, false, false, false, false, false, true, true]
      = .ok (.eeRead 0x203#10)
  ∧ decodeBytes [0xFF#8, 0x51#8, 0x00#8, 0x00#8, 0x02#8, 0x01#8] = .ok (.sdCmd17 0x00000201#32)
  ∧ decodeBytes [0xFF#8, 0x50#8, 0x00#8, 0x00#8, 0x02#8, 0x00#8, 0x95#8, 0xFF#8, 0x7F#8]
      = .ok (.sdCmd16 0x00000200#32 0x95#8 0xFF7F#16)

/-! ## Invariants and whole-machine rules -/

/-- 10_state.md R22, R40, 44_spi_card.md R274: every step keeps the three arrays canonical and within their
sizes; that the form is a list of listed bytes is the model's (log 7). -/
def Obligations.ArraysStayCanonical : Prop :=
  ∀ s t : State, s.ArraysCanonical → step s = .next t → t.ArraysCanonical

/-- 10_state.md R24, R25, R32: every step but a snapshot load keeps the FlashChip's invariants. -/
def Obligations.FlashInvariantKept : Prop :=
  ∀ s t : State, s.FlashInv → (∀ major bytes, s.inputs.head? ≠ some (.flLoad major bytes)) →
    step s = .next t → t.FlashInv

/-- 43_eeprom.md R248 (d), (e), 10_state.md R42, R43: every step keeps the bit counter within its bound, the
command among those its count allows, and a READ only while the chip is selected. -/
def Obligations.EepromInvariantKept : Prop :=
  ∀ s t : State, s.eeprom.Inv → step s = .next t → t.eeprom.Inv

/-- 44_spi_card.md R278, R279, R303, R304, R308: every step keeps the card's counters within their buffers
and its phases in their states. -/
def Obligations.CardInvariantKept : Prop :=
  ∀ s t : State, s.card.Inv s.cfg → step s = .next t → t.card.Inv t.cfg

/-- 00_scope.md R12, 10_state.md R35, R48, R60: the four invariants hold at reset. That the variant is the
29F040 and the images are blank is the model's choice (log 4, log 7). -/
def Obligations.InvariantsAtReset : Prop :=
  State.reset.ArraysCanonical ∧ State.reset.FlashInv ∧ State.reset.eeprom.Inv
  ∧ State.reset.card.Inv State.reset.cfg

/-- 00_scope.md R2, R3, R14, 60_exceptions.md R341: no operation changes the configuration, and an operation
on one engine changes nothing of the others; the card alone has the image. -/
def Obligations.EnginesShareNothing : Prop :=
  ∀ (op : Op) (s t : State), perform op s = .next t →
    t.cfg = s.cfg ∧ t.inputs = s.inputs
    ∧ ((∃ a, op = .flRead a) ∨ (∃ a b rmw, op = .flWrite a b rmw) ∨ (∃ a, op = .flPeek a)
        ∨ op = .flReset ∨ op = .flTick ∨ op = .flExpire ∨ op = .flSave
        ∨ (∃ major bytes, op = .flLoad major bytes) ∨ op = .flClearDirty →
      t.eeprom = s.eeprom ∧ t.card = s.card ∧ t.image = s.image ∧ t.ioFail = s.ioFail
      ∧ (op ≠ .flTick → t.clk = s.clk))
    ∧ ((∃ v, op = .eeSelect v) ∨ (∃ v, op = .eeClock v) ∨ (∃ b, op = .eeData b)
        ∨ op = .eeReadData ∨ op = .eeReset ∨ (∃ bits, op = .eeFrame bits) →
      t.flash = s.flash ∧ t.clk = s.clk ∧ t.card = s.card ∧ t.image = s.image
      ∧ t.ioFail = s.ioFail)
    ∧ ((∃ b, op = .sdWrite b) ∨ op = .sdRead ∨ op = .sdReset ∨ (∃ bytes, op = .sdFrame bytes) →
      t.flash = s.flash ∧ t.clk = s.clk ∧ t.eeprom = s.eeprom)

/-- 00_scope.md R12, 44_spi_card.md R271, 70_reset_and_hazards.md R360, R361, R367, 10_state.md R35, R48, R60,
the spec's own decisions D23, D42, D60 and D66: construction refuses an ill-formed configuration and a
wrong-sized image, and otherwise gives every register of the three engines its power-on value, the arrays
the images' bytes and the configuration the resolved card kind. That the clock starts at 0 and the model's
own lists are empty is the model's choice (log 1, log 2, log 8, log 17), and so is the power of two of
sectors in the test of a variant (log 27). -/
def Obligations.Construction : Prop :=
  ∀ (c : Config) (fi ei ci : List Byte),
    (c.wf = false → State.construct c fi ei ci = .refused .configurationRefused)
    ∧ (c.wf = true → (fi.length ≠ c.variant.size ∨ ei.length ≠ 2048) →
      State.construct c fi ei ci = .refused .imageWrongSize)
    ∧ (c.wf = true → fi.length = c.variant.size → ei.length = 2048 →
      ∃ (array cells image : Memory) (t : State),
        (∀ x < fi.length, array.read x = fi.getD x 0#8)
        ∧ (∀ x < ei.length, cells.read x = ei.getD x 0#8)
        ∧ (∀ x < ci.length, image.read x = ci.getD x 0#8)
        ∧ t =
          { cfg := { c with imgLen := ci.length, autoKind := Config.resolveAuto ci }
            clk := 0
            flash :=
              { data := array, seq := .read, baseState := .read, pending := 0#64
                programByte := 0x00#8, lastRead := 0x00#8, dirty := false, eraseTimer := none }
            eeprom :=
              { cells := cells, cs := false, ck := false, di := false, dout := false, inSr := 0#29
                inCnt := 0, outSr := 0#16, outCnt := 0, command := .none, addr := 0#10, wel := false }
            card :=
              { cmdBuf := Vector.replicate 9 0x00#8, cmdIdx := 0, state := .idle, blockSize := 512#32
                imageCursor := 0#64, readBuffer := [], readPos := 0, writeBuffer := []
                writePhase := .waitToken, resp := [] }
            image := image
            ioFail := []
            inputs := []
            outputs := [] }
        ∧ t.flash = FlashChip.powerOn array ∧ t.eeprom = SerialEeprom.powerOn cells
        ∧ t.card = SpiCard.powerOn
        ∧ State.construct c fi ei ci = .next t
        ∧ t.ArraysCanonical ∧ t.FlashInv ∧ t.eeprom.Inv ∧ t.card.Inv t.cfg)

/-- 00_scope.md R12, R17, 20_memory.md R93 (c): in a well-formed variant no address matches both magic
pairs, and the sector of an address of the chip is the one whose bytes hold it, one of at most 64. That
a well-formed variant has a power of two of sectors is the model's reading (log 27). -/
def Obligations.VariantGeometry : Prop :=
  ∀ (v : Variant) (a : Nat), v.wf = true →
    ¬(isM1 v a = true ∧ isM2 v a = true)
    ∧ (a < v.size →
      sectorOf v a < 64
      ∧ sectorOf v a * v.sectorSize ≤ a ∧ a < (sectorOf v a + 1) * v.sectorSize)
end

