-- ==== Sys2Proof/Laws/State.lean ====
section
/-! SUPPORT. One lemma per field per update of the machine's records, each true by `rfl`, so that no proof
unfolds a record update. -/

namespace Sys2Proof.Laws

open Machine

/-! ## State -/
@[simp] theorem setFlash_cfg (s : State) (f : FlashChip) :
    (s.setFlash f).cfg = s.cfg := rfl
@[simp] theorem setFlash_clk (s : State) (f : FlashChip) :
    (s.setFlash f).clk = s.clk := rfl
@[simp] theorem setFlash_flash (s : State) (f : FlashChip) :
    (s.setFlash f).flash = f := rfl
@[simp] theorem setFlash_eeprom (s : State) (f : FlashChip) :
    (s.setFlash f).eeprom = s.eeprom := rfl
@[simp] theorem setFlash_card (s : State) (f : FlashChip) :
    (s.setFlash f).card = s.card := rfl
@[simp] theorem setFlash_image (s : State) (f : FlashChip) :
    (s.setFlash f).image = s.image := rfl
@[simp] theorem setFlash_ioFail (s : State) (f : FlashChip) :
    (s.setFlash f).ioFail = s.ioFail := rfl
@[simp] theorem setFlash_inputs (s : State) (f : FlashChip) :
    (s.setFlash f).inputs = s.inputs := rfl
@[simp] theorem setFlash_outputs (s : State) (f : FlashChip) :
    (s.setFlash f).outputs = s.outputs := rfl
@[simp] theorem setEeprom_cfg (s : State) (e : SerialEeprom) :
    (s.setEeprom e).cfg = s.cfg := rfl
@[simp] theorem setEeprom_clk (s : State) (e : SerialEeprom) :
    (s.setEeprom e).clk = s.clk := rfl
@[simp] theorem setEeprom_flash (s : State) (e : SerialEeprom) :
    (s.setEeprom e).flash = s.flash := rfl
@[simp] theorem setEeprom_eeprom (s : State) (e : SerialEeprom) :
    (s.setEeprom e).eeprom = e := rfl
@[simp] theorem setEeprom_card (s : State) (e : SerialEeprom) :
    (s.setEeprom e).card = s.card := rfl
@[simp] theorem setEeprom_image (s : State) (e : SerialEeprom) :
    (s.setEeprom e).image = s.image := rfl
@[simp] theorem setEeprom_ioFail (s : State) (e : SerialEeprom) :
    (s.setEeprom e).ioFail = s.ioFail := rfl
@[simp] theorem setEeprom_inputs (s : State) (e : SerialEeprom) :
    (s.setEeprom e).inputs = s.inputs := rfl
@[simp] theorem setEeprom_outputs (s : State) (e : SerialEeprom) :
    (s.setEeprom e).outputs = s.outputs := rfl
@[simp] theorem setCard_cfg (s : State) (c : SpiCard) :
    (s.setCard c).cfg = s.cfg := rfl
@[simp] theorem setCard_clk (s : State) (c : SpiCard) :
    (s.setCard c).clk = s.clk := rfl
@[simp] theorem setCard_flash (s : State) (c : SpiCard) :
    (s.setCard c).flash = s.flash := rfl
@[simp] theorem setCard_eeprom (s : State) (c : SpiCard) :
    (s.setCard c).eeprom = s.eeprom := rfl
@[simp] theorem setCard_card (s : State) (c : SpiCard) :
    (s.setCard c).card = c := rfl
@[simp] theorem setCard_image (s : State) (c : SpiCard) :
    (s.setCard c).image = s.image := rfl
@[simp] theorem setCard_ioFail (s : State) (c : SpiCard) :
    (s.setCard c).ioFail = s.ioFail := rfl
@[simp] theorem setCard_inputs (s : State) (c : SpiCard) :
    (s.setCard c).inputs = s.inputs := rfl
@[simp] theorem setCard_outputs (s : State) (c : SpiCard) :
    (s.setCard c).outputs = s.outputs := rfl
@[simp] theorem emit_cfg (s : State) (r : Reply) :
    (s.emit r).cfg = s.cfg := rfl
@[simp] theorem emit_clk (s : State) (r : Reply) :
    (s.emit r).clk = s.clk := rfl
@[simp] theorem emit_flash (s : State) (r : Reply) :
    (s.emit r).flash = s.flash := rfl
@[simp] theorem emit_eeprom (s : State) (r : Reply) :
    (s.emit r).eeprom = s.eeprom := rfl
@[simp] theorem emit_card (s : State) (r : Reply) :
    (s.emit r).card = s.card := rfl
@[simp] theorem emit_image (s : State) (r : Reply) :
    (s.emit r).image = s.image := rfl
@[simp] theorem emit_ioFail (s : State) (r : Reply) :
    (s.emit r).ioFail = s.ioFail := rfl
@[simp] theorem emit_inputs (s : State) (r : Reply) :
    (s.emit r).inputs = s.inputs := rfl
@[simp] theorem emit_outputs (s : State) (r : Reply) :
    (s.emit r).outputs = s.outputs ++ [r] := rfl
@[simp] theorem issue_cfg (s : State) (op : Op) :
    (s.issue op).cfg = s.cfg := rfl
@[simp] theorem issue_clk (s : State) (op : Op) :
    (s.issue op).clk = s.clk := rfl
@[simp] theorem issue_flash (s : State) (op : Op) :
    (s.issue op).flash = s.flash := rfl
@[simp] theorem issue_eeprom (s : State) (op : Op) :
    (s.issue op).eeprom = s.eeprom := rfl
@[simp] theorem issue_card (s : State) (op : Op) :
    (s.issue op).card = s.card := rfl
@[simp] theorem issue_image (s : State) (op : Op) :
    (s.issue op).image = s.image := rfl
@[simp] theorem issue_ioFail (s : State) (op : Op) :
    (s.issue op).ioFail = s.ioFail := rfl
@[simp] theorem issue_inputs (s : State) (op : Op) :
    (s.issue op).inputs = op :: s.inputs := rfl
@[simp] theorem issue_outputs (s : State) (op : Op) :
    (s.issue op).outputs = s.outputs := rfl

/-! ## FlashChip -/
@[simp] theorem goto_data (f : FlashChip) (q : FlashState) :
    (f.goto q).data = f.data := rfl
@[simp] theorem goto_seq (f : FlashChip) (q : FlashState) :
    (f.goto q).seq = q := rfl
@[simp] theorem goto_baseState (f : FlashChip) (q : FlashState) :
    (f.goto q).baseState = f.baseState := rfl
@[simp] theorem goto_pending (f : FlashChip) (q : FlashState) :
    (f.goto q).pending = f.pending := rfl
@[simp] theorem goto_programByte (f : FlashChip) (q : FlashState) :
    (f.goto q).programByte = f.programByte := rfl
@[simp] theorem goto_lastRead (f : FlashChip) (q : FlashState) :
    (f.goto q).lastRead = f.lastRead := rfl
@[simp] theorem goto_dirty (f : FlashChip) (q : FlashState) :
    (f.goto q).dirty = f.dirty := rfl
@[simp] theorem goto_eraseTimer (f : FlashChip) (q : FlashState) :
    (f.goto q).eraseTimer = f.eraseTimer := rfl
@[simp] theorem gotoBase_data (f : FlashChip) :
    (f.gotoBase).data = f.data := rfl
@[simp] theorem gotoBase_seq (f : FlashChip) :
    (f.gotoBase).seq = f.baseState := rfl
@[simp] theorem gotoBase_baseState (f : FlashChip) :
    (f.gotoBase).baseState = f.baseState := rfl
@[simp] theorem gotoBase_pending (f : FlashChip) :
    (f.gotoBase).pending = f.pending := rfl
@[simp] theorem gotoBase_programByte (f : FlashChip) :
    (f.gotoBase).programByte = f.programByte := rfl
@[simp] theorem gotoBase_lastRead (f : FlashChip) :
    (f.gotoBase).lastRead = f.lastRead := rfl
@[simp] theorem gotoBase_dirty (f : FlashChip) :
    (f.gotoBase).dirty = f.dirty := rfl
@[simp] theorem gotoBase_eraseTimer (f : FlashChip) :
    (f.gotoBase).eraseTimer = f.eraseTimer := rfl
@[simp] theorem arm_data (f : FlashChip) (clk : Nat) (t : Nat) :
    (f.arm clk t).data = f.data := rfl
@[simp] theorem arm_seq (f : FlashChip) (clk : Nat) (t : Nat) :
    (f.arm clk t).seq = f.seq := rfl
@[simp] theorem arm_baseState (f : FlashChip) (clk : Nat) (t : Nat) :
    (f.arm clk t).baseState = f.baseState := rfl
@[simp] theorem arm_pending (f : FlashChip) (clk : Nat) (t : Nat) :
    (f.arm clk t).pending = f.pending := rfl
@[simp] theorem arm_programByte (f : FlashChip) (clk : Nat) (t : Nat) :
    (f.arm clk t).programByte = f.programByte := rfl
@[simp] theorem arm_lastRead (f : FlashChip) (clk : Nat) (t : Nat) :
    (f.arm clk t).lastRead = f.lastRead := rfl
@[simp] theorem arm_dirty (f : FlashChip) (clk : Nat) (t : Nat) :
    (f.arm clk t).dirty = f.dirty := rfl
@[simp] theorem arm_eraseTimer (f : FlashChip) (clk : Nat) (t : Nat) :
    (f.arm clk t).eraseTimer = some (clk + t) := rfl
@[simp] theorem cancel_data (f : FlashChip) :
    (f.cancel).data = f.data := rfl
@[simp] theorem cancel_seq (f : FlashChip) :
    (f.cancel).seq = f.seq := rfl
@[simp] theorem cancel_baseState (f : FlashChip) :
    (f.cancel).baseState = f.baseState := rfl
@[simp] theorem cancel_pending (f : FlashChip) :
    (f.cancel).pending = f.pending := rfl
@[simp] theorem cancel_programByte (f : FlashChip) :
    (f.cancel).programByte = f.programByte := rfl
@[simp] theorem cancel_lastRead (f : FlashChip) :
    (f.cancel).lastRead = f.lastRead := rfl
@[simp] theorem cancel_dirty (f : FlashChip) :
    (f.cancel).dirty = f.dirty := rfl
@[simp] theorem cancel_eraseTimer (f : FlashChip) :
    (f.cancel).eraseTimer = none := rfl
@[simp] theorem fill_data (f : FlashChip) (lo : Nat) (n : Nat) :
    (f.fill lo n).data = f.data.erase lo n := rfl
@[simp] theorem fill_seq (f : FlashChip) (lo : Nat) (n : Nat) :
    (f.fill lo n).seq = f.seq := rfl
@[simp] theorem fill_baseState (f : FlashChip) (lo : Nat) (n : Nat) :
    (f.fill lo n).baseState = f.baseState := rfl
@[simp] theorem fill_pending (f : FlashChip) (lo : Nat) (n : Nat) :
    (f.fill lo n).pending = f.pending := rfl
@[simp] theorem fill_programByte (f : FlashChip) (lo : Nat) (n : Nat) :
    (f.fill lo n).programByte = f.programByte := rfl
@[simp] theorem fill_lastRead (f : FlashChip) (lo : Nat) (n : Nat) :
    (f.fill lo n).lastRead = f.lastRead := rfl
@[simp] theorem fill_dirty (f : FlashChip) (lo : Nat) (n : Nat) :
    (f.fill lo n).dirty = true := rfl
@[simp] theorem fill_eraseTimer (f : FlashChip) (lo : Nat) (n : Nat) :
    (f.fill lo n).eraseTimer = f.eraseTimer := rfl
@[simp] theorem enterProgramError_data (f : FlashChip) :
    (f.enterProgramError).data = f.data := rfl
@[simp] theorem enterProgramError_seq (f : FlashChip) :
    (f.enterProgramError).seq = .byteProgramError := rfl
@[simp] theorem enterProgramError_baseState (f : FlashChip) :
    (f.enterProgramError).baseState = f.baseState := rfl
@[simp] theorem enterProgramError_pending (f : FlashChip) :
    (f.enterProgramError).pending = f.pending := rfl
@[simp] theorem enterProgramError_programByte (f : FlashChip) :
    (f.enterProgramError).programByte = f.programByte := rfl
@[simp] theorem enterProgramError_lastRead (f : FlashChip) :
    (f.enterProgramError).lastRead = f.lastRead := rfl
@[simp] theorem enterProgramError_dirty (f : FlashChip) :
    (f.enterProgramError).dirty = f.dirty := rfl
@[simp] theorem enterProgramError_eraseTimer (f : FlashChip) :
    (f.enterProgramError).eraseTimer = f.eraseTimer := rfl
@[simp] theorem returnToRead_data (f : FlashChip) :
    (f.returnToRead).data = f.data := rfl
@[simp] theorem returnToRead_seq (f : FlashChip) :
    (f.returnToRead).seq = .read := rfl
@[simp] theorem returnToRead_baseState (f : FlashChip) :
    (f.returnToRead).baseState = .read := rfl
@[simp] theorem returnToRead_pending (f : FlashChip) :
    (f.returnToRead).pending = f.pending := rfl
@[simp] theorem returnToRead_programByte (f : FlashChip) :
    (f.returnToRead).programByte = f.programByte := rfl
@[simp] theorem returnToRead_lastRead (f : FlashChip) :
    (f.returnToRead).lastRead = f.lastRead := rfl
@[simp] theorem returnToRead_dirty (f : FlashChip) :
    (f.returnToRead).dirty = f.dirty := rfl
@[simp] theorem returnToRead_eraseTimer (f : FlashChip) :
    (f.returnToRead).eraseTimer = f.eraseTimer := rfl
@[simp] theorem hwReset_data (f : FlashChip) :
    (f.hwReset).data = f.data := rfl
@[simp] theorem hwReset_seq (f : FlashChip) :
    (f.hwReset).seq = .read := rfl
@[simp] theorem hwReset_baseState (f : FlashChip) :
    (f.hwReset).baseState = .read := rfl
@[simp] theorem hwReset_pending (f : FlashChip) :
    (f.hwReset).pending = 0#64 := rfl
@[simp] theorem hwReset_programByte (f : FlashChip) :
    (f.hwReset).programByte = 0x00#8 := rfl
@[simp] theorem hwReset_lastRead (f : FlashChip) :
    (f.hwReset).lastRead = f.lastRead := rfl
@[simp] theorem hwReset_dirty (f : FlashChip) :
    (f.hwReset).dirty = f.dirty := rfl
@[simp] theorem hwReset_eraseTimer (f : FlashChip) :
    (f.hwReset).eraseTimer = none := rfl

/-! ## SerialEEPROM -/
@[simp] theorem boundary_cells (e : SerialEeprom) :
    (e.boundary).cells = e.cells := rfl
@[simp] theorem boundary_cs (e : SerialEeprom) :
    (e.boundary).cs = e.cs := rfl
@[simp] theorem boundary_ck (e : SerialEeprom) :
    (e.boundary).ck = e.ck := rfl
@[simp] theorem boundary_di (e : SerialEeprom) :
    (e.boundary).di = e.di := rfl
@[simp] theorem boundary_dout (e : SerialEeprom) :
    (e.boundary).dout = e.dout := rfl
@[simp] theorem boundary_inSr (e : SerialEeprom) :
    (e.boundary).inSr = 0#29 := rfl
@[simp] theorem boundary_inCnt (e : SerialEeprom) :
    (e.boundary).inCnt = 0 := rfl
@[simp] theorem boundary_outSr (e : SerialEeprom) :
    (e.boundary).outSr = e.outSr := rfl
@[simp] theorem boundary_outCnt (e : SerialEeprom) :
    (e.boundary).outCnt = e.outCnt := rfl
@[simp] theorem boundary_command (e : SerialEeprom) :
    (e.boundary).command = e.command := rfl
@[simp] theorem boundary_addr (e : SerialEeprom) :
    (e.boundary).addr = e.addr := rfl
@[simp] theorem boundary_wel (e : SerialEeprom) :
    (e.boundary).wel = e.wel := rfl
@[simp] theorem idle_cells (e : SerialEeprom) :
    (e.idle).cells = e.cells := rfl
@[simp] theorem idle_cs (e : SerialEeprom) :
    (e.idle).cs = e.cs := rfl
@[simp] theorem idle_ck (e : SerialEeprom) :
    (e.idle).ck = e.ck := rfl
@[simp] theorem idle_di (e : SerialEeprom) :
    (e.idle).di = e.di := rfl
@[simp] theorem idle_dout (e : SerialEeprom) :
    (e.idle).dout = e.dout := rfl
@[simp] theorem idle_inSr (e : SerialEeprom) :
    (e.idle).inSr = 0#29 := rfl
@[simp] theorem idle_inCnt (e : SerialEeprom) :
    (e.idle).inCnt = 0 := rfl
@[simp] theorem idle_outSr (e : SerialEeprom) :
    (e.idle).outSr = e.outSr := rfl
@[simp] theorem idle_outCnt (e : SerialEeprom) :
    (e.idle).outCnt = e.outCnt := rfl
@[simp] theorem idle_command (e : SerialEeprom) :
    (e.idle).command = .none := rfl
@[simp] theorem idle_addr (e : SerialEeprom) :
    (e.idle).addr = e.addr := rfl
@[simp] theorem idle_wel (e : SerialEeprom) :
    (e.idle).wel = e.wel := rfl
@[simp] theorem showBusy_cells (e : SerialEeprom) :
    (e.showBusy).cells = e.cells := rfl
@[simp] theorem showBusy_cs (e : SerialEeprom) :
    (e.showBusy).cs = e.cs := rfl
@[simp] theorem showBusy_ck (e : SerialEeprom) :
    (e.showBusy).ck = e.ck := rfl
@[simp] theorem showBusy_di (e : SerialEeprom) :
    (e.showBusy).di = e.di := rfl
@[simp] theorem showBusy_dout (e : SerialEeprom) :
    (e.showBusy).dout = e.dout := rfl
@[simp] theorem showBusy_inSr (e : SerialEeprom) :
    (e.showBusy).inSr = 0#29 := rfl
@[simp] theorem showBusy_inCnt (e : SerialEeprom) :
    (e.showBusy).inCnt = 0 := rfl
@[simp] theorem showBusy_outSr (e : SerialEeprom) :
    (e.showBusy).outSr = e.outSr := rfl
@[simp] theorem showBusy_outCnt (e : SerialEeprom) :
    (e.showBusy).outCnt = e.outCnt := rfl
@[simp] theorem showBusy_command (e : SerialEeprom) :
    (e.showBusy).command = .busy := rfl
@[simp] theorem showBusy_addr (e : SerialEeprom) :
    (e.showBusy).addr = e.addr := rfl
@[simp] theorem showBusy_wel (e : SerialEeprom) :
    (e.showBusy).wel = e.wel := rfl
@[simp] theorem writeData_cells (e : SerialEeprom) (b : Bool) :
    (e.writeData b).cells = e.cells := rfl
@[simp] theorem writeData_cs (e : SerialEeprom) (b : Bool) :
    (e.writeData b).cs = e.cs := rfl
@[simp] theorem writeData_ck (e : SerialEeprom) (b : Bool) :
    (e.writeData b).ck = e.ck := rfl
@[simp] theorem writeData_di (e : SerialEeprom) (b : Bool) :
    (e.writeData b).di = b := rfl
@[simp] theorem writeData_dout (e : SerialEeprom) (b : Bool) :
    (e.writeData b).dout = e.dout := rfl
@[simp] theorem writeData_inSr (e : SerialEeprom) (b : Bool) :
    (e.writeData b).inSr = e.inSr := rfl
@[simp] theorem writeData_inCnt (e : SerialEeprom) (b : Bool) :
    (e.writeData b).inCnt = e.inCnt := rfl
@[simp] theorem writeData_outSr (e : SerialEeprom) (b : Bool) :
    (e.writeData b).outSr = e.outSr := rfl
@[simp] theorem writeData_outCnt (e : SerialEeprom) (b : Bool) :
    (e.writeData b).outCnt = e.outCnt := rfl
@[simp] theorem writeData_command (e : SerialEeprom) (b : Bool) :
    (e.writeData b).command = e.command := rfl
@[simp] theorem writeData_addr (e : SerialEeprom) (b : Bool) :
    (e.writeData b).addr = e.addr := rfl
@[simp] theorem writeData_wel (e : SerialEeprom) (b : Bool) :
    (e.writeData b).wel = e.wel := rfl
@[simp] theorem reset_cells (e : SerialEeprom) :
    (e.reset).cells = e.cells := rfl
@[simp] theorem reset_cs (e : SerialEeprom) :
    (e.reset).cs = e.cs := rfl
@[simp] theorem reset_ck (e : SerialEeprom) :
    (e.reset).ck = e.ck := rfl
@[simp] theorem reset_di (e : SerialEeprom) :
    (e.reset).di = e.di := rfl
@[simp] theorem reset_dout (e : SerialEeprom) :
    (e.reset).dout = e.dout := rfl
@[simp] theorem reset_inSr (e : SerialEeprom) :
    (e.reset).inSr = 0#29 := rfl
@[simp] theorem reset_inCnt (e : SerialEeprom) :
    (e.reset).inCnt = 0 := rfl
@[simp] theorem reset_outSr (e : SerialEeprom) :
    (e.reset).outSr = 0#16 := rfl
@[simp] theorem reset_outCnt (e : SerialEeprom) :
    (e.reset).outCnt = 0 := rfl
@[simp] theorem reset_command (e : SerialEeprom) :
    (e.reset).command = .none := rfl
@[simp] theorem reset_addr (e : SerialEeprom) :
    (e.reset).addr = 0#10 := rfl
@[simp] theorem reset_wel (e : SerialEeprom) :
    (e.reset).wel = e.wel := rfl

/-! ## SpiMmcCard -/
@[simp] theorem respond_cmdBuf (c : SpiCard) (bytes : List Byte) :
    (c.respond bytes).cmdBuf = c.cmdBuf := rfl
@[simp] theorem respond_cmdIdx (c : SpiCard) (bytes : List Byte) :
    (c.respond bytes).cmdIdx = c.cmdIdx := rfl
@[simp] theorem respond_state (c : SpiCard) (bytes : List Byte) :
    (c.respond bytes).state = .idle := rfl
@[simp] theorem respond_blockSize (c : SpiCard) (bytes : List Byte) :
    (c.respond bytes).blockSize = c.blockSize := rfl
@[simp] theorem respond_imageCursor (c : SpiCard) (bytes : List Byte) :
    (c.respond bytes).imageCursor = c.imageCursor := rfl
@[simp] theorem respond_readBuffer (c : SpiCard) (bytes : List Byte) :
    (c.respond bytes).readBuffer = c.readBuffer := rfl
@[simp] theorem respond_readPos (c : SpiCard) (bytes : List Byte) :
    (c.respond bytes).readPos = c.readPos := rfl
@[simp] theorem respond_writeBuffer (c : SpiCard) (bytes : List Byte) :
    (c.respond bytes).writeBuffer = c.writeBuffer := rfl
@[simp] theorem respond_writePhase (c : SpiCard) (bytes : List Byte) :
    (c.respond bytes).writePhase = c.writePhase := rfl
@[simp] theorem respond_resp (c : SpiCard) (bytes : List Byte) :
    (c.respond bytes).resp = bytes := rfl
@[simp] theorem startDummyRead_cmdBuf (c : SpiCard) :
    (c.startDummyRead).cmdBuf = c.cmdBuf := rfl
@[simp] theorem startDummyRead_cmdIdx (c : SpiCard) :
    (c.startDummyRead).cmdIdx = c.cmdIdx := rfl
@[simp] theorem startDummyRead_state (c : SpiCard) :
    (c.startDummyRead).state = .dummyRead := rfl
@[simp] theorem startDummyRead_blockSize (c : SpiCard) :
    (c.startDummyRead).blockSize = c.blockSize := rfl
@[simp] theorem startDummyRead_imageCursor (c : SpiCard) :
    (c.startDummyRead).imageCursor = c.imageCursor := rfl
@[simp] theorem startDummyRead_readBuffer (c : SpiCard) :
    (c.startDummyRead).readBuffer = List.replicate c.blockSize.toNat 0x00#8 := rfl
@[simp] theorem startDummyRead_readPos (c : SpiCard) :
    (c.startDummyRead).readPos = 0 := rfl
@[simp] theorem startDummyRead_writeBuffer (c : SpiCard) :
    (c.startDummyRead).writeBuffer = c.writeBuffer := rfl
@[simp] theorem startDummyRead_writePhase (c : SpiCard) :
    (c.startDummyRead).writePhase = c.writePhase := rfl
@[simp] theorem startDummyRead_resp (c : SpiCard) :
    (c.startDummyRead).resp = c.resp := rfl
@[simp] theorem clearCmd_cmdBuf (c : SpiCard) :
    (c.clearCmd).cmdBuf = c.cmdBuf := rfl
@[simp] theorem clearCmd_cmdIdx (c : SpiCard) :
    (c.clearCmd).cmdIdx = 0 := rfl
@[simp] theorem clearCmd_state (c : SpiCard) :
    (c.clearCmd).state = c.state := rfl
@[simp] theorem clearCmd_blockSize (c : SpiCard) :
    (c.clearCmd).blockSize = c.blockSize := rfl
@[simp] theorem clearCmd_imageCursor (c : SpiCard) :
    (c.clearCmd).imageCursor = c.imageCursor := rfl
@[simp] theorem clearCmd_readBuffer (c : SpiCard) :
    (c.clearCmd).readBuffer = c.readBuffer := rfl
@[simp] theorem clearCmd_readPos (c : SpiCard) :
    (c.clearCmd).readPos = c.readPos := rfl
@[simp] theorem clearCmd_writeBuffer (c : SpiCard) :
    (c.clearCmd).writeBuffer = c.writeBuffer := rfl
@[simp] theorem clearCmd_writePhase (c : SpiCard) :
    (c.clearCmd).writePhase = c.writePhase := rfl
@[simp] theorem clearCmd_resp (c : SpiCard) :
    (c.clearCmd).resp = c.resp := rfl

end Sys2Proof.Laws
end

