-- ==== Sys2Proof/Laws/Exec.lean ====
section
/-! SUPPORT. What stands between an instruction and its engine, once: an instruction's meaning is the
operation that presents it, a FlashChip cycle has a step exactly inside the chip, and every other
operation always has one. -/

namespace Sys2Proof.Laws

open Machine

/-- The meaning of an instruction is the operation of its encoding. -/
theorem exec_eq_perform (i : Instr) (s : State) : exec i s = perform (encode i) s := by
  cases i <;> rfl

/-- A run whose first step goes on is the run of the rest from there. -/
theorem core_run_succ {s t : Sys2Proof.core.State} (h : step s = .next t) (n : Nat) :
    Host.Core.run Sys2Proof.core (n + 1) s = Host.Core.run Sys2Proof.core n t := by
  have h' : Sys2Proof.core.step s = .next t := h
  simp only [Host.Core.run, h']

theorem atFlash_of_lt {s : State} {a : Nat} (h : a < s.cfg.variant.size) (t : State) :
    s.atFlash a t = .next t := if_pos h

theorem atFlash_of_le {s : State} {a : Nat} (h : s.cfg.variant.size ≤ a) (t : State) :
    s.atFlash a t = .refused (.flashAddressOutOfRange a) := if_neg (Nat.not_lt.mpr h)

/-- A FlashChip access that goes on went to an address of the chip and to the state given. -/
theorem atFlash_next {s : State} {a : Nat} {t u : State} (h : s.atFlash a t = .next u) :
    a < s.cfg.variant.size ∧ u = t := by
  unfold State.atFlash at h
  split at h
  · exact ⟨‹_›, by injection h with h; exact h.symm⟩
  · cases h

theorem storeCycle_of_lt {s : State} {a : Nat} (h : a < s.cfg.variant.size) (b : Byte) :
    s.storeCycle a b = .next (s.setFlash (s.flash.store s.cfg s.clk a b)) := if_pos h

theorem rmwCycle_of_lt {s : State} {a : Nat} (h : a < s.cfg.variant.size) (b : Byte) :
    s.rmwCycle a b =
      .next (s.setFlash
        ((s.flash.store s.cfg s.clk a s.flash.lastRead).store s.cfg s.clk a b)) := if_pos h

theorem readCycle_of_lt {s : State} {a : Nat} (h : a < s.cfg.variant.size) :
    s.readCycle a =
      .next ((s.setFlash (s.flash.afterRead s.cfg s.clk a)).emit
        (.byte (s.flash.readValue s.cfg s.clk a))) := if_pos h

/-- The state an operation gives when it goes on, whatever it is. -/
def after (op : Op) (s : State) : State :=
  match op with
  | .flRead a =>
    (s.setFlash (s.flash.afterRead s.cfg s.clk a)).emit (.byte (s.flash.readValue s.cfg s.clk a))
  | .flWrite a b rmw =>
    if rmw then
      s.setFlash ((s.flash.store s.cfg s.clk a s.flash.lastRead).store s.cfg s.clk a b)
    else s.setFlash (s.flash.store s.cfg s.clk a b)
  | .flPeek a => s.emit (.byte (s.flash.data.read a))
  | .flReset => s.setFlash s.flash.hwReset
  | .flTick => s.tick
  | .flExpire => s.expireStep
  | .flSave => s.snapshotSave
  | .flLoad major bytes => s.snapshotLoad major bytes
  | .flClearDirty => s.clearDirty
  | .eeSelect v => s.setEeprom (s.eeprom.writeSelect v)
  | .eeClock v => s.setEeprom (s.eeprom.writeClock v)
  | .eeData b => s.setEeprom (s.eeprom.writeData b)
  | .eeReadData => s.emit (.bit (s.eeprom.readData s.cfg.eeDoDeselected))
  | .eeReset => s.setEeprom s.eeprom.reset
  | .eeFrame bits => s.setEeprom (s.eeprom.clockBits bits)
  | .sdWrite b => s.dataWrite b
  | .sdRead => s.dataRead
  | .sdReset => s.setCard SpiCard.powerOn
  | .sdFrame bytes => s.dataWrites bytes

/-- An operation inside its precondition goes on to `after`. -/
theorem perform_of_inRange {op : Op} {s : State} (h : opInRange s.cfg.variant op) :
    perform op s = .next (after op s) := by
  cases op with
  | flRead a => exact if_pos h
  | flWrite a b rmw =>
    cases rmw
    · exact if_pos h
    · exact if_pos h
  | flPeek a => exact if_pos h
  | _ => rfl

/-- An operation that goes on was inside its precondition, and goes on to `after`. -/
theorem perform_next {op : Op} {s t : State} (h : perform op s = .next t) :
    opInRange s.cfg.variant op ∧ t = after op s := by
  cases op with
  | flRead a => exact atFlash_next h
  | flWrite a b rmw =>
    cases rmw
    · exact atFlash_next h
    · exact atFlash_next h
  | flPeek a => exact atFlash_next h
  | _ => exact ⟨trivial, by injection h with h; exact h.symm⟩

end Sys2Proof.Laws
end

