-- ==== Sys2Proof/Laws/Memory.lean ====
section
/-! SUPPORT. The storage arrays: reading after writing and erasing, and the canonical form kept by every
operation of Machine/Ops.lean and Machine/Eeprom.lean. -/

namespace Sys2Proof.Laws

open Machine

/-! ## Reading -/

@[simp] theorem read_nil (a : Nat) : Memory.read [] a = Memory.unlisted := rfl

theorem read_cons (k : Nat) (b : Byte) (m : Memory) (a : Nat) :
    Memory.read ((k, b) :: m) a = if k = a then b else Memory.read m a := rfl

/-- An address that no entry lists reads as unlisted. -/
theorem read_of_forall_ne {m : Memory} {a : Nat} (h : ∀ c ∈ m, c.1 ≠ a) :
    m.read a = Memory.unlisted := by
  induction m with
  | nil => rfl
  | cons c m ih =>
    obtain ⟨k, b⟩ := c
    have hk : k ≠ a := h (k, b) (by simp)
    rw [read_cons, if_neg hk]
    exact ih fun c hc => h c (by simp [hc])

/-! ## The canonical form -/

theorem wf_cons_iff {k : Nat} {b : Byte} {m : Memory} :
    Memory.wf ((k, b) :: m) = true ↔
      b ≠ Memory.unlisted ∧ (∀ c ∈ m, k < c.1) ∧ Memory.wf m = true := by
  simp [Memory.wf, and_assoc]

/-- In canonical form every address below the head's is unlisted. -/
theorem read_lt_head {k : Nat} {b : Byte} {m : Memory} {a : Nat}
    (h : Memory.wf ((k, b) :: m) = true) (ha : a < k) :
    Memory.read ((k, b) :: m) a = Memory.unlisted := by
  obtain ⟨-, hall, -⟩ := wf_cons_iff.mp h
  refine read_of_forall_ne fun c hc => ?_
  rcases List.mem_cons.mp hc with rfl | hc
  · exact Nat.ne_of_gt ha
  · exact Nat.ne_of_gt (Nat.lt_trans ha (hall c hc))

/-! ## One byte stored -/

/-- The entries of a written array are the new one and old ones. -/
theorem mem_write {m : Memory} {a : Nat} {b : Byte} {c : Host.Cell} (h : c ∈ m.write a b) :
    c = (a, b) ∨ c ∈ m := by
  induction m with
  | nil =>
    simp only [Memory.write] at h
    split at h <;> simp_all
  | cons d m ih =>
    obtain ⟨k, e⟩ := d
    simp only [Memory.write] at h
    split at h
    · split at h
      · exact .inr h
      · simpa using h
    · split at h
      · split at h
        · exact .inr (by simp [h])
        · rcases List.mem_cons.mp h with h | h
          · exact .inl h
          · exact .inr (by simp [h])
      · rcases List.mem_cons.mp h with h | h
        · exact .inr (by simp [h])
        · rcases ih h with h | h
          · exact .inl h
          · exact .inr (by simp [h])

theorem write_wf {m : Memory} (hm : m.wf = true) (a : Nat) (b : Byte) : (m.write a b).wf = true := by
  induction m with
  | nil =>
    simp only [Memory.write]
    split <;> simp_all [Memory.wf]
  | cons d m ih =>
    obtain ⟨k, e⟩ := d
    obtain ⟨he, hall, hwf⟩ := wf_cons_iff.mp hm
    simp only [Memory.write]
    split
    · rename_i hak
      split
      · exact hm
      · rename_i hb
        refine wf_cons_iff.mpr ⟨hb, fun c hc => ?_, hm⟩
        rcases List.mem_cons.mp hc with rfl | hc
        · exact hak
        · exact Nat.lt_trans hak (hall c hc)
    · split
      · rename_i hak
        subst hak
        split
        · exact hwf
        · rename_i hb
          exact wf_cons_iff.mpr ⟨hb, hall, hwf⟩
      · rename_i h1 h2
        refine wf_cons_iff.mpr ⟨he, fun c hc => ?_, ih hwf⟩
        rcases mem_write hc with rfl | hc
        · show k < a
          omega
        · exact hall c hc

/-- Reading after a write: the stored byte at its address, every other address as before. -/
theorem read_write {m : Memory} (hm : m.wf = true) (a : Nat) (b : Byte) (x : Nat) :
    (m.write a b).read x = if x = a then b else m.read x := by
  induction m with
  | nil =>
    simp only [Memory.write]
    split
    · rename_i hb
      subst hb
      simp
    · simp [read_cons, eq_comm]
  | cons d m ih =>
    obtain ⟨k, e⟩ := d
    obtain ⟨-, hall, hwf⟩ := wf_cons_iff.mp hm
    simp only [Memory.write]
    split
    · rename_i hak
      split
      · rename_i hb
        subst hb
        split
        · rename_i hx
          subst hx
          exact read_lt_head hm hak
        · rfl
      · by_cases hx : x = a
        · simp [read_cons, hx]
        · simp [read_cons, hx, Ne.symm hx]
    · split
      · rename_i hak
        subst hak
        split
        · rename_i hb
          subst hb
          by_cases hx : x = a
          · subst hx
            simp only [if_true]
            exact read_of_forall_ne fun c hc => Nat.ne_of_gt (hall c hc)
          · simp [read_cons, hx, Ne.symm hx]
        · by_cases hx : x = a
          · simp [read_cons, hx]
          · simp [read_cons, hx, Ne.symm hx]
      · rename_i h1 h2
        simp only [read_cons, ih hwf]
        by_cases hx : x = a
        · subst hx
          simp [Ne.symm h2]
        · simp [hx]

@[simp] theorem read_write_same {m : Memory} (hm : m.wf = true) (a : Nat) (b : Byte) :
    (m.write a b).read a = b := by simp [read_write hm]

theorem read_write_other {m : Memory} (hm : m.wf = true) {a x : Nat} (b : Byte) (h : x ≠ a) :
    (m.write a b).read x = m.read x := by simp [read_write hm, h]

theorem below_iff {m : Memory} {n : Nat} : m.below n = true ↔ ∀ c ∈ m, c.1 < n := by
  simp [Memory.below]

theorem write_below {m : Memory} {n a : Nat} (hm : m.below n = true) (ha : a < n) (b : Byte) :
    (m.write a b).below n = true := by
  rw [below_iff] at *
  intro c hc
  rcases mem_write hc with rfl | hc
  · exact ha
  · exact hm c hc

/-! ## Erasing a range -/

theorem mem_erase {m : Memory} {lo n : Nat} {c : Host.Cell} :
    c ∈ m.erase lo n ↔ c ∈ m ∧ ¬(lo ≤ c.1 ∧ c.1 < lo + n) := by
  simp only [Memory.erase, List.mem_filter, Bool.not_eq_true', Bool.and_eq_false_iff,
    decide_eq_false_iff_not, not_and_or]

theorem erase_wf {m : Memory} (hm : m.wf = true) (lo n : Nat) : (m.erase lo n).wf = true := by
  induction m with
  | nil => rfl
  | cons d m ih =>
    obtain ⟨k, e⟩ := d
    obtain ⟨he, hall, hwf⟩ := wf_cons_iff.mp hm
    have ih := ih hwf
    simp only [Memory.erase, List.filter_cons] at ih ⊢
    split
    · exact wf_cons_iff.mpr ⟨he, fun c hc => hall c (List.mem_filter.mp hc).1, ih⟩
    · exact ih

/-- Reading after an erase: 0xFF in the range, every other address as before. -/
theorem read_erase (m : Memory) (lo n x : Nat) :
    (m.erase lo n).read x = if lo ≤ x ∧ x < lo + n then Memory.unlisted else m.read x := by
  induction m with
  | nil => simp [Memory.erase]
  | cons d m ih =>
    obtain ⟨k, e⟩ := d
    have hcons : Memory.erase ((k, e) :: m) lo n =
        if lo ≤ k ∧ k < lo + n then Memory.erase m lo n
        else (k, e) :: Memory.erase m lo n := by
      by_cases hr : lo ≤ k ∧ k < lo + n
      · rw [if_pos hr, Memory.erase, List.filter_cons_of_neg]
        · rfl
        · simp [hr.1, hr.2]
      · rw [if_neg hr, Memory.erase, List.filter_cons_of_pos]
        · rfl
        · simpa [-not_and, not_and_or] using hr
    rw [hcons, read_cons]
    by_cases hk : k = x
    · subst hk
      by_cases hr : lo ≤ k ∧ k < lo + n
      · rw [if_pos hr, ih]
        simp [hr]
      · rw [if_neg hr, if_neg hr, read_cons, if_pos rfl, if_pos rfl]
    · rw [if_neg hk]
      split
      · exact ih
      · rw [read_cons, if_neg hk, ih]

theorem erase_below {m : Memory} {size : Nat} (hm : m.below size = true) (lo n : Nat) :
    (m.erase lo n).below size = true := by
  rw [below_iff] at *
  exact fun c hc => hm c (mem_erase.mp hc).1

/-! ## Words and ranges -/

theorem writeWord_wf {m : Memory} (hm : m.wf = true) (a : Nat) (d : BitVec 16) :
    (m.writeWord a d).wf = true := write_wf (write_wf hm _ _) _ _

theorem read_writeWord {m : Memory} (hm : m.wf = true) (a : Nat) (d : BitVec 16) (x : Nat) :
    (m.writeWord a d).read x =
      if x = 2 * a then highByte d else if x = 2 * a + 1 then lowByte d else m.read x := by
  rw [Memory.writeWord, read_write (write_wf hm _ _), read_write hm]
  split_ifs <;> first | rfl | omega

theorem writeWord_below {m : Memory} {n a : Nat} (hm : m.below n = true) (ha : 2 * a + 1 < n)
    (d : BitVec 16) : (m.writeWord a d).below n = true :=
  write_below (write_below hm (by omega) _) ha _

theorem writeWords_wf {m : Memory} (hm : m.wf = true) (d : BitVec 16) (n : Nat) :
    (m.writeWords d n).wf = true := by
  induction n generalizing m with
  | zero => exact hm
  | succ n ih => exact ih (writeWord_wf hm n d)

theorem writeWords_below {m : Memory} {size : Nat} (d : BitVec 16) (n : Nat) (hn : 2 * n ≤ size)
    (hm : m.below size = true) : (m.writeWords d n).below size = true := by
  induction n generalizing m with
  | zero => exact hm
  | succ n ih => exact ih (by omega) (writeWord_below hm (by omega) d)

/-- Reading after the `n` lowest words are all set. -/
theorem read_writeWords {m : Memory} (hm : m.wf = true) (d : BitVec 16) (n x : Nat) :
    (m.writeWords d n).read x =
      if x < 2 * n then (if x % 2 = 0 then highByte d else lowByte d) else m.read x := by
  induction n generalizing m with
  | zero => simp [Memory.writeWords]
  | succ n ih =>
    rw [Memory.writeWords, ih (writeWord_wf hm n d), read_writeWord hm]
    split_ifs <;> first | rfl | omega

theorem writeRange_wf {m : Memory} (hm : m.wf = true) (lo : Nat) (bs : List Byte) :
    (m.writeRange lo bs).wf = true := by
  induction bs generalizing m lo with
  | nil => exact hm
  | cons b bs ih => exact ih (write_wf hm lo b) (lo + 1)

theorem writeRange_below {m : Memory} {n : Nat} (lo : Nat) (bs : List Byte)
    (h : lo + bs.length ≤ n) (hm : m.below n = true) : (m.writeRange lo bs).below n = true := by
  induction bs generalizing m lo with
  | nil => exact hm
  | cons b bs ih =>
    simp only [List.length_cons] at h
    exact ih (lo + 1) (by omega) (write_below hm (by omega) b)

/-- Reading after a run of bytes is stored. -/
theorem read_writeRange {m : Memory} (hm : m.wf = true) (lo : Nat) (bs : List Byte) (x : Nat) :
    (m.writeRange lo bs).read x =
      if lo ≤ x ∧ x < lo + bs.length then bs.getD (x - lo) 0#8 else m.read x := by
  induction bs generalizing m lo with
  | nil =>
    simp [Memory.writeRange]
  | cons b bs ih =>
    rw [Memory.writeRange, ih (write_wf hm lo b), read_write hm]
    simp only [List.length_cons]
    by_cases hx : x = lo
    · subst hx
      simp
    · by_cases hr : lo + 1 ≤ x ∧ x < lo + 1 + bs.length
      · have h2 : lo ≤ x ∧ x < lo + (bs.length + 1) := by omega
        obtain ⟨j, hj⟩ : ∃ j, x - lo = j + 1 := ⟨x - lo - 1, by omega⟩
        have hj' : x - (lo + 1) = j := by omega
        simp [hr, h2, hj, hj']
      · have h2 : ¬(lo ≤ x ∧ x < lo + (bs.length + 1)) := by omega
        simp only [hx, hr, h2, if_false]

@[simp] theorem readRange_length (m : Memory) (lo n : Nat) : (m.readRange lo n).length = n := by
  induction n generalizing lo with
  | zero => rfl
  | succ n ih => simp [Memory.readRange, ih]

theorem readRange_getD (m : Memory) (lo n i : Nat) (h : i < n) (d : Byte) :
    (m.readRange lo n).getD i d = m.read (lo + i) := by
  induction n generalizing lo i with
  | zero => omega
  | succ n ih =>
    cases i with
    | zero => simp [Memory.readRange]
    | succ i =>
      have := ih (lo + 1) i (by omega)
      simp only [Memory.readRange, List.getD_cons_succ, this]
      congr 1
      omega

theorem mem_ofBytes {lo : Nat} {bs : List Byte} {c : Host.Cell} (h : c ∈ Memory.ofBytes lo bs) :
    lo ≤ c.1 ∧ c.1 < lo + bs.length := by
  induction bs generalizing lo with
  | nil => simp [Memory.ofBytes] at h
  | cons b bs ih =>
    simp only [Memory.ofBytes] at h
    simp only [List.length_cons]
    split at h
    · have := ih h
      omega
    · rcases List.mem_cons.mp h with rfl | h
      · simp
      · have := ih h
        omega

theorem ofBytes_wf (lo : Nat) (bs : List Byte) : (Memory.ofBytes lo bs).wf = true := by
  induction bs generalizing lo with
  | nil => rfl
  | cons b bs ih =>
    simp only [Memory.ofBytes]
    split
    · exact ih _
    · rename_i hb
      exact wf_cons_iff.mpr ⟨hb, fun c hc => (mem_ofBytes hc).1, ih _⟩

theorem ofBytes_below (bs : List Byte) : (Memory.ofBytes 0 bs).below bs.length = true := by
  rw [below_iff]
  intro c hc
  have := (mem_ofBytes hc).2
  omega

/-- The array made of bytes reads as those bytes. -/
theorem read_ofBytes (lo : Nat) (bs : List Byte) (x : Nat) :
    (Memory.ofBytes lo bs).read x =
      if lo ≤ x ∧ x < lo + bs.length then bs.getD (x - lo) 0#8 else Memory.unlisted := by
  induction bs generalizing lo with
  | nil =>
    simp [Memory.ofBytes]
  | cons b bs ih =>
    simp only [Memory.ofBytes, List.length_cons]
    by_cases hx : x = lo
    · subst hx
      split
      · rename_i hb
        simp [ih, hb]
      · simp [read_cons]
    · have hne : lo ≠ x := Ne.symm hx
      have hstep : (if b = Memory.unlisted then Memory.ofBytes (lo + 1) bs
          else (lo, b) :: Memory.ofBytes (lo + 1) bs).read x
          = (Memory.ofBytes (lo + 1) bs).read x := by
        split
        · rfl
        · rw [read_cons, if_neg hne]
      rw [hstep, ih]
      by_cases hr : lo + 1 ≤ x ∧ x < lo + 1 + bs.length
      · have h2 : lo ≤ x ∧ x < lo + (bs.length + 1) := by omega
        obtain ⟨j, hj⟩ : ∃ j, x - lo = j + 1 := ⟨x - lo - 1, by omega⟩
        have hj' : x - (lo + 1) = j := by omega
        simp [hr, h2, hj, hj']
      · have h2 : ¬(lo ≤ x ∧ x < lo + (bs.length + 1)) := by omega
        simp only [hr, h2, if_false]

/-- Arrays in canonical form that read the same are the same data. -/
theorem eq_of_read_eq {m m' : Memory} (hm : m.wf = true) (hm' : m'.wf = true)
    (h : ∀ a, m.read a = m'.read a) : m = m' := by
  induction m generalizing m' with
  | nil =>
    cases m' with
    | nil => rfl
    | cons d m' =>
      obtain ⟨k, b⟩ := d
      have := h k
      simp [read_cons] at this
      exact absurd this.symm (wf_cons_iff.mp hm').1
  | cons d m ih =>
    obtain ⟨k, b⟩ := d
    obtain ⟨hb, hall, hwf⟩ := wf_cons_iff.mp hm
    cases m' with
    | nil =>
      have := h k
      simp [read_cons] at this
      exact absurd this hb
    | cons d' m' =>
      obtain ⟨k', b'⟩ := d'
      obtain ⟨hb', hall', hwf'⟩ := wf_cons_iff.mp hm'
      have hk : k = k' := by
        rcases Nat.lt_trichotomy k k' with hlt | heq | hgt
        · have h1 := h k
          rw [read_lt_head hm' hlt, read_cons, if_pos rfl] at h1
          exact absurd h1 hb
        · exact heq
        · have h1 := h k'
          rw [read_lt_head hm hgt, read_cons, if_pos rfl] at h1
          exact absurd h1.symm hb'
      subst hk
      have hbb : b = b' := by
        have h1 := h k
        simpa [read_cons] using h1
      subst hbb
      have : m = m' := ih hwf hwf' fun a => by
        by_cases ha : k = a
        · subst ha
          rw [read_of_forall_ne fun c hc => Nat.ne_of_gt (hall c hc),
            read_of_forall_ne fun c hc => Nat.ne_of_gt (hall' c hc)]
        · have h1 := h a
          simpa [read_cons, ha] using h1
      rw [this]

end Sys2Proof.Laws
end

