-- ==== Sys2Proof/Laws/Card.lean ====
section
/-! SUPPORT. The card's shared operations, each with what it can do said once: the argument's byte order,
the image's calls, the framer, a whole frame, and the block-write machine. -/

namespace Sys2Proof.Laws

open Machine

/-! ## Byte order -/

/-- The bytes a master sends assemble to the argument. -/
theorem argOfBytes_argBytes (arg : BitVec 32) :
    argOfBytes (arg.extractLsb' 24 8) (arg.extractLsb' 16 8) (arg.extractLsb' 8 8)
      (arg.extractLsb' 0 8) = arg := by
  apply BitVec.eq_of_getLsbD_eq
  intro i hi
  simp only [argOfBytes, BitVec.getLsbD_or, BitVec.getLsbD_shiftLeft, BitVec.truncate_eq_setWidth,
    BitVec.getLsbD_setWidth, BitVec.getLsbD_extractLsb']
  interval_cases i <;> simp

/-- The argument of four bytes is sent as those bytes. -/
theorem argBytes_argOfBytes (b2 b3 b4 b5 : Byte) :
    argBytes (argOfBytes b2 b3 b4 b5) = [b2, b3, b4, b5] := by
  have h : ∀ (k : Nat) (b : Byte), (∀ i < 8, (argOfBytes b2 b3 b4 b5).getLsbD (k + i) = b.getLsbD i) →
      (argOfBytes b2 b3 b4 b5).extractLsb' k 8 = b := by
    intro k b hb
    apply BitVec.eq_of_getLsbD_eq
    intro i hi
    rw [BitVec.getLsbD_extractLsb', hb i hi]
    simp [hi]
  rw [argBytes, h 24 b2, h 16 b3, h 8 b4, h 0 b5] <;>
    · intro i hi
      simp only [argOfBytes, BitVec.getLsbD_or, BitVec.getLsbD_shiftLeft,
        BitVec.truncate_eq_setWidth, BitVec.getLsbD_setWidth]
      interval_cases i <;> simp [BitVec.getLsbD_of_ge]

theorem frameNeed_cases (c : Byte) :
    (frameNeed c = 9 ∧ (c = 0x48#8 ∨ c = 0x49#8 ∨ c = 0x4A#8 ∨ c = 0x50#8))
    ∨ (frameNeed c = 6 ∧ ¬(c = 0x48#8 ∨ c = 0x49#8 ∨ c = 0x4A#8 ∨ c = 0x50#8)) := by
  unfold frameNeed
  split
  · exact .inl ⟨rfl, ‹_›⟩
  · exact .inr ⟨rfl, ‹_›⟩

/-! ## What the card leaves alone -/

/-- The parts of the machine no card operation touches, but for the values returned. -/
structure SameOutside (s t : State) : Prop where
  cfg : t.cfg = s.cfg
  clk : t.clk = s.clk
  flash : t.flash = s.flash
  eeprom : t.eeprom = s.eeprom
  inputs : t.inputs = s.inputs
  outputs : t.outputs = s.outputs

theorem SameOutside.refl (s : State) : SameOutside s s := ⟨rfl, rfl, rfl, rfl, rfl, rfl⟩

theorem SameOutside.trans {s t u : State} (h : SameOutside s t) (k : SameOutside t u) :
    SameOutside s u :=
  ⟨k.cfg.trans h.cfg, k.clk.trans h.clk, k.flash.trans h.flash, k.eeprom.trans h.eeprom,
    k.inputs.trans h.inputs, k.outputs.trans h.outputs⟩

theorem setCard_same (s : State) (c : SpiCard) : SameOutside s (s.setCard c) :=
  ⟨rfl, rfl, rfl, rfl, rfl, rfl⟩

/-- A call of the image takes at most one answer from the list and changes nothing else. -/
theorem nextIo_eq (s : State) : s.nextIo = (s.ioFail.headD false, { s with ioFail := s.ioFail.tail }) := by
  obtain ⟨_, _, _, _, _, _, io, _, _⟩ := s
  cases io <;> rfl

theorem imgSeek_eq (s : State) (off : Nat) :
    s.imgSeek off =
      (!s.ioFail.headD false && decide (off ≤ s.cfg.imgLen), { s with ioFail := s.ioFail.tail }) := by
  simp [State.imgSeek, nextIo_eq]

theorem imgRead_eq (s : State) (off n : Nat) :
    s.imgRead off n =
      (if !s.ioFail.headD false && decide (off + n ≤ s.cfg.imgLen)
        then some (s.image.readRange off n) else none, { s with ioFail := s.ioFail.tail }) := by
  simp [State.imgRead, nextIo_eq]

theorem imgWrite_eq (s : State) (off : Nat) (bytes : List Byte) :
    s.imgWrite off bytes =
      { s with
        ioFail := s.ioFail.tail
        image := if !s.ioFail.headD false && decide (off + bytes.length ≤ s.cfg.imgLen)
          then s.image.writeRange off bytes else s.image } := by
  simp only [State.imgWrite, nextIo_eq]
  split <;> rfl

/-- Whether the seek of a command succeeds at an offset. -/
def seekOk (s : State) (off : Nat) : Bool := !s.ioFail.headD false && decide (off ≤ s.cfg.imgLen)

/-- Whether CMD17 reads its block at an offset: a card, the seek and the read. -/
def readOk (s : State) (off : Nat) : Bool :=
  s.cfg.cardPresent && seekOk s off && !s.ioFail.tail.headD false
    && decide (off + s.card.blockSize.toNat ≤ s.cfg.imgLen)

/-- CMD17, everything it does. -/
theorem cmd17_eq (s : State) (arg : BitVec 32) :
    s.cmd17 arg =
      { s with
        ioFail :=
          if s.cfg.cardPresent then
            (if seekOk s (mmcGetAddr (effectiveKind s.cfg) arg).toNat then s.ioFail.tail.tail
              else s.ioFail.tail)
          else s.ioFail
        card := { s.card with
          imageCursor := mmcGetAddr (effectiveKind s.cfg) arg
          readBuffer := if readOk s (mmcGetAddr (effectiveKind s.cfg) arg).toNat
            then s.image.readRange (mmcGetAddr (effectiveKind s.cfg) arg).toNat s.card.blockSize.toNat
            else List.replicate s.card.blockSize.toNat 0x00#8
          readPos := 0
          state := if readOk s (mmcGetAddr (effectiveKind s.cfg) arg).toNat
            then .read else .dummyRead } } := by
  have hs : ∀ off, s.imgSeek off = (seekOk s off, { s with ioFail := s.ioFail.tail }) := imgSeek_eq s
  unfold State.cmd17 readOk
  simp only [hs, imgRead_eq]
  generalize (mmcGetAddr (effectiveKind s.cfg) arg).toNat = a
  cases s.cfg.cardPresent <;> cases seekOk s a <;> try rfl
  cases hf : s.ioFail.tail.headD false <;>
    by_cases hl : a + s.card.blockSize.toNat ≤ s.cfg.imgLen <;> simp [hl, State.setCard, SpiCard.startDummyRead]

/-- CMD24, everything it does. -/
theorem cmd24_eq (s : State) (arg : BitVec 32) :
    s.cmd24 arg =
      { s with
        ioFail := if s.cfg.cardPresent then s.ioFail.tail else s.ioFail
        card := { s.card with
          imageCursor := mmcGetAddr (effectiveKind s.cfg) arg
          writePhase := .waitToken
          state :=
            if s.cfg.cardPresent && seekOk s (mmcGetAddr (effectiveKind s.cfg) arg).toNat
              then .write else .dummyWrite } } := by
  have hs : ∀ off, s.imgSeek off = (seekOk s off, { s with ioFail := s.ioFail.tail }) := imgSeek_eq s
  unfold State.cmd24
  simp only [hs]
  cases s.cfg.cardPresent <;> rfl

theorem cmd17_same (s : State) (arg : BitVec 32) :
    SameOutside s (s.cmd17 arg) ∧ (s.cmd17 arg).image = s.image := by
  rw [cmd17_eq]
  exact ⟨⟨rfl, rfl, rfl, rfl, rfl, rfl⟩, rfl⟩

theorem cmd24_same (s : State) (arg : BitVec 32) :
    SameOutside s (s.cmd24 arg) ∧ (s.cmd24 arg).image = s.image := by
  rw [cmd24_eq]
  exact ⟨⟨rfl, rfl, rfl, rfl, rfl, rfl⟩, rfl⟩

/-- What holds of both branches holds of the choice. -/
theorem either {α : Type} {P : α → Prop} {c : Prop} [Decidable c] {a b : α} (ha : P a) (hb : P b) :
    P (if c then a else b) := by
  split
  · exact ha
  · exact hb

/-- A command touches the card and the list of answers only. -/
theorem runCommand_same (s : State) (c : Byte) (arg : BitVec 32) :
    SameOutside s (s.runCommand c arg) ∧ (s.runCommand c arg).image = s.image := by
  unfold State.runCommand
  repeat' first
    | exact ⟨setCard_same _ _, rfl⟩
    | exact cmd17_same s arg
    | exact cmd24_same s arg
    | refine either (P := fun t => SameOutside s t ∧ t.image = s.image) ?_ ?_

theorem dispatch_same (s : State) : SameOutside s s.dispatch ∧ s.dispatch.image = s.image := by
  unfold State.dispatch
  obtain ⟨h, hi⟩ := runCommand_same (s.setCard { s.card with resp := [] }) s.card.cmdBuf[1] s.card.arg
  exact ⟨((setCard_same _ _).trans h).trans (setCard_same _ _), hi⟩

theorem frameByte_same (s : State) (b : Byte) :
    SameOutside s (s.frameByte b) ∧ (s.frameByte b).image = s.image := by
  unfold State.frameByte
  simp only
  split
  · split
    · exact ⟨setCard_same _ _, rfl⟩
    · exact ⟨.refl s, rfl⟩
  · split
    · exact ⟨.refl s, rfl⟩
    · split
      · obtain ⟨h, hi⟩ := dispatch_same (s.setCard
          { s.card with
            cmdBuf := s.card.cmdBuf.setIfInBounds s.card.cmdIdx b, cmdIdx := s.card.cmdIdx + 1 })
        exact ⟨(setCard_same _ _).trans h, hi⟩
      · exact ⟨setCard_same _ _, rfl⟩

theorem commitBlock_same (s : State) : SameOutside s s.commitBlock := by
  unfold State.commitBlock
  simp only [imgWrite_eq]
  split <;> exact ⟨rfl, rfl, rfl, rfl, rfl, rfl⟩

theorem blockByte_same (s : State) (b : Byte) : SameOutside s (s.blockByte b) := by
  unfold State.blockByte
  split
  · unfold State.tokenByte
    split
    · simp only
      split
      · exact (setCard_same _ _).trans (commitBlock_same _)
      · exact setCard_same _ _
    · exact .refl s
  · unfold State.dataByte
    simp only
    split
    · exact (setCard_same _ _).trans (commitBlock_same _)
    · exact setCard_same _ _
  · unfold State.crcByte
    split <;> exact setCard_same _ _

/-- A byte written to the card touches nothing outside the card and its image. -/
theorem dataWrite_same (s : State) (b : Byte) : SameOutside s (s.dataWrite b) := by
  unfold State.dataWrite
  split
  · exact blockByte_same s b
  · exact blockByte_same s b
  all_goals exact (frameByte_same s b).1

theorem dataWrites_same (bytes : List Byte) (s : State) : SameOutside s (s.dataWrites bytes) := by
  induction bytes generalizing s with
  | nil => exact .refl s
  | cons b bs ih => exact (dataWrite_same s b).trans (ih _)

/-! ## A whole frame -/

/-- The state with `k` bytes in the command buffer `v`. -/
def buffered (s : State) (v : Vector Byte 9) (k : Nat) : State :=
  s.setCard { s.card with cmdBuf := v, cmdIdx := k }

theorem dataWrite_frame {s : State} (hw : s.card.state ≠ .write) (hd : s.card.state ≠ .dummyWrite)
    (b : Byte) : s.dataWrite b = s.frameByte b := by
  unfold State.dataWrite
  cases h : s.card.state <;> simp_all

/-- A byte that the framer buffers without reaching the end of the frame. -/
theorem dataWrite_buffer (s : State) (v : Vector Byte 9) (b : Byte) (k : Nat) (h9 : k < 9)
    (hw : s.card.state ≠ .write) (hd : s.card.state ≠ .dummyWrite)
    (h0 : k ≠ 0) (h1 : k = 1 → b ≠ 0xFF#8)
    (hn : k + 1 < 6 ∨ (k ≠ 1 ∧ k + 1 < frameNeed v[1])) :
    (buffered s v k).dataWrite b = buffered s (v.set k b) (k + 1) := by
  rw [dataWrite_frame (s := buffered s v k) hw hd]
  unfold State.frameByte
  have hset : v.setIfInBounds k b = v.set k b := by
    ext i hi
    simp [Vector.getElem_setIfInBounds, Vector.getElem_set]
  simp only [buffered, setCard_card, if_neg h0, hset]
  rw [if_neg (by rintro ⟨h, hb⟩; exact h1 h hb), if_neg]
  · rfl
  · rintro ⟨h6, h7⟩
    rcases hn with hn | ⟨hk1, hn⟩
    · omega
    · have : (v.set k b)[1] = v[1] := by simp [hk1]
      rw [this] at h7
      omega

/-- The byte that ends a frame. -/
theorem dataWrite_dispatch (s : State) (v : Vector Byte 9) (b : Byte) (k : Nat) (h9 : k < 9)
    (hw : s.card.state ≠ .write) (hd : s.card.state ≠ .dummyWrite)
    (h6 : 6 ≤ k + 1) (hn : frameNeed v[1] ≤ k + 1) :
    (buffered s v k).dataWrite b = (buffered s (v.set k b) (k + 1)).dispatch := by
  rw [dataWrite_frame (s := buffered s v k) hw hd]
  unfold State.frameByte
  have hset : v.setIfInBounds k b = v.set k b := by
    ext i hi
    simp [Vector.getElem_setIfInBounds, Vector.getElem_set]
  have hb1 : (v.set k b)[1] = v[1] := by
    have : k ≠ 1 := by omega
    simp [this]
  simp only [buffered, setCard_card, hset]
  rw [if_neg (by omega), if_neg (by omega), if_pos]
  · rfl
  · exact ⟨h6, by rw [hb1]; exact hn⟩

/-- The sync byte begins a frame. -/
theorem dataWrite_sync {s : State} (h : s.card.Listening) :
    s.dataWrite 0xFF#8 = buffered s (s.card.cmdBuf.set 0 0xFF#8) 1 := by
  obtain ⟨h0, hw, hd⟩ := h
  rw [dataWrite_frame hw hd]
  simp [State.frameByte, h0, buffered]

/-- The state in which a frame is dispatched: its bytes buffered. -/
def framed (s : State) (bytes : List Byte) : State :=
  s.setCard { s.card with cmdBuf := frameBuffer s.card.cmdBuf bytes, cmdIdx := bytes.length }

/-- A six-byte frame is buffered and dispatched. -/
theorem dataWrites_six {s : State} (h : s.card.Listening) {c b2 b3 b4 b5 : Byte} (hc : c ≠ 0xFF#8)
    (hn : frameNeed c = 6) :
    s.dataWrites [0xFF#8, c, b2, b3, b4, b5] = (framed s [0xFF#8, c, b2, b3, b4, b5]).dispatch := by
  obtain ⟨h0, hw, hd⟩ := h
  simp only [State.dataWrites, List.foldl_cons, List.foldl_nil]
  rw [dataWrite_sync ⟨h0, hw, hd⟩,
    dataWrite_buffer s _ _ 1 (by decide) hw hd (by decide) (fun _ => hc) (.inl (by decide)),
    dataWrite_buffer s _ _ 2 (by decide) hw hd (by decide) (fun h => absurd h (by decide))
      (.inl (by decide)),
    dataWrite_buffer s _ _ 3 (by decide) hw hd (by decide) (fun h => absurd h (by decide))
      (.inl (by decide)),
    dataWrite_buffer s _ _ 4 (by decide) hw hd (by decide) (fun h => absurd h (by decide))
      (.inl (by decide)),
    dataWrite_dispatch s _ _ 5 (by decide) hw hd (by decide) (by simpa using hn.le)]
  congr 1
  simp only [framed, buffered, State.setCard, List.length_cons, List.length_nil]
  congr 2
  ext i hi
  simp only [frameBuffer, Vector.getElem_ofFn, Vector.getElem_set]
  interval_cases i <;> rfl

/-- A nine-byte frame is buffered and dispatched. -/
theorem dataWrites_nine {s : State} (h : s.card.Listening) {c b2 b3 b4 b5 b6 b7 b8 : Byte}
    (hn : frameNeed c = 9) :
    s.dataWrites [0xFF#8, c, b2, b3, b4, b5, b6, b7, b8] =
      (framed s [0xFF#8, c, b2, b3, b4, b5, b6, b7, b8]).dispatch := by
  obtain ⟨h0, hw, hd⟩ := h
  have hc : c ≠ 0xFF#8 := by
    rintro rfl
    exact absurd hn (by decide)
  simp only [State.dataWrites, List.foldl_cons, List.foldl_nil]
  rw [dataWrite_sync ⟨h0, hw, hd⟩,
    dataWrite_buffer s _ _ 1 (by decide) hw hd (by decide) (fun _ => hc) (.inl (by decide)),
    dataWrite_buffer s _ _ 2 (by decide) hw hd (by decide) (fun h => absurd h (by decide))
      (.inl (by decide)),
    dataWrite_buffer s _ _ 3 (by decide) hw hd (by decide) (fun h => absurd h (by decide))
      (.inl (by decide)),
    dataWrite_buffer s _ _ 4 (by decide) hw hd (by decide) (fun h => absurd h (by decide))
      (.inl (by decide)),
    dataWrite_buffer s _ _ 5 (by decide) hw hd (by decide) (fun h => absurd h (by decide))
      (.inr ⟨by decide, by simp [hn]⟩),
    dataWrite_buffer s _ _ 6 (by decide) hw hd (by decide) (fun h => absurd h (by decide))
      (.inr ⟨by decide, by simp [hn]⟩),
    dataWrite_buffer s _ _ 7 (by decide) hw hd (by decide) (fun h => absurd h (by decide))
      (.inr ⟨by decide, by simp [hn]⟩),
    dataWrite_dispatch s _ _ 8 (by decide) hw hd (by decide) (by simpa using hn.le)]
  congr 1
  simp only [framed, buffered, State.setCard, List.length_cons, List.length_nil]
  congr 2
  ext i hi
  simp only [frameBuffer, Vector.getElem_ofFn, Vector.getElem_set]
  interval_cases i <;> rfl

/-- A frame is dispatched with its own command byte and argument, and the framer starts again. -/
theorem framed_dispatch (s : State) (c : Byte) (arg : BitVec 32) (rest : List Byte) :
    (framed s (0xFF#8 :: c :: (argBytes arg ++ rest))).dispatch =
      (fun t : State => t.setCard t.card.clearCmd)
        (((framed s (0xFF#8 :: c :: (argBytes arg ++ rest))).setCard
          { (framed s (0xFF#8 :: c :: (argBytes arg ++ rest))).card with resp := [] }).runCommand c arg) := by
  have h1 : (framed s (0xFF#8 :: c :: (argBytes arg ++ rest))).card.cmdBuf[1] = c := by
    simp [framed, frameBuffer]
  have h2 : (framed s (0xFF#8 :: c :: (argBytes arg ++ rest))).card.arg = arg := by
    have : ∀ b2 b3 b4 b5 : Byte, argBytes arg = [b2, b3, b4, b5] →
        (framed s (0xFF#8 :: c :: (argBytes arg ++ rest))).card.arg = argOfBytes b2 b3 b4 b5 := by
      intro b2 b3 b4 b5 h
      simp [SpiCard.arg, framed, frameBuffer, h]
    rw [this _ _ _ _ rfl, argOfBytes_argBytes]
  unfold State.dispatch
  simp only [h1, h2]

/-- The frame of a six-byte command: the command at the buffered frame, with the response discarded and
the framer empty again. -/
theorem cardFrame_six {s : State} (h : s.card.Listening) {c : Byte} (arg : BitVec 32) (hc : c ≠ 0xFF#8)
    (hn : frameNeed c = 6) :
    s.cardFrame c arg [] =
      .next ((fun t : State => t.setCard t.card.clearCmd)
        ((s.setCard { s.card with
          cmdBuf := frameBuffer s.card.cmdBuf ([0xFF#8, c] ++ argBytes arg), cmdIdx := 6
          resp := [] }).runCommand c arg)) := by
  unfold State.cardFrame
  have : s.dataWrites (0xFF#8 :: c :: (argBytes arg ++ [])) =
      (framed s (0xFF#8 :: c :: (argBytes arg ++ []))).dispatch := dataWrites_six h hc hn
  rw [this, framed_dispatch]
  rfl

/-- The frame of a nine-byte command. -/
theorem cardFrame_nine {s : State} (h : s.card.Listening) {c : Byte} (arg : BitVec 32) (b6 b7 b8 : Byte)
    (hn : frameNeed c = 9) :
    s.cardFrame c arg [b6, b7, b8] =
      .next ((fun t : State => t.setCard t.card.clearCmd)
        ((s.setCard { s.card with
          cmdBuf := frameBuffer s.card.cmdBuf ([0xFF#8, c] ++ argBytes arg ++ [b6, b7, b8])
          cmdIdx := 9
          resp := [] }).runCommand c arg)) := by
  unfold State.cardFrame
  have : s.dataWrites (0xFF#8 :: c :: (argBytes arg ++ [b6, b7, b8])) =
      (framed s (0xFF#8 :: c :: (argBytes arg ++ [b6, b7, b8]))).dispatch := dataWrites_nine h hn
  rw [this, framed_dispatch]
  rfl

/-! ## Block write -/

theorem storeAt_getD {l : List Byte} {k : Nat} (hk : k ≤ l.length) (b : Byte) (j : Nat) :
    (storeAt l k b).getD j 0x00#8 = if j = k then b else l.getD j 0x00#8 := by
  unfold storeAt
  split
  · rename_i h
    simp only [List.getD_eq_getElem?_getD, List.getElem?_set]
    by_cases hj : j = k
    · subst hj
      simp [h]
    · simp [hj, Ne.symm hj]
  · have : k = l.length := by omega
    subst this
    simp only [Nat.sub_self, List.replicate_zero, List.append_nil]
    by_cases hj : j = l.length
    · subst hj
      simp
    · simp only [hj, if_false, List.getD_eq_getElem?_getD]
      by_cases hlt : j < l.length
      · rw [List.getElem?_append_left hlt]
      · rw [List.getElem?_eq_none (by simp; omega), List.getElem?_eq_none (by omega)]

theorem storeAt_length {l : List Byte} {k : Nat} (hk : k ≤ l.length) (b : Byte) :
    k + 1 ≤ (storeAt l k b).length := by
  unfold storeAt
  split
  · simpa
  · simp
    omega

/-- Everything a byte of a block write can do to the image: nothing, or one block at the cursor. -/
theorem commitBlock_eq (s : State) :
    ∃ (io : List Bool) (ok : Bool),
      s.commitBlock =
        { s with
          ioFail := io
          image := if ok
            then s.image.writeRange s.card.imageCursor.toNat
              (s.card.writeBuffer.take s.card.blockSize.toNat)
            else s.image
          card := { s.card with writePhase := .crc 0 } }
      ∧ (ok = true → s.card.state = .write ∧ s.cfg.cardPresent = true ∧
          s.card.imageCursor.toNat
            + (s.card.writeBuffer.take s.card.blockSize.toNat).length ≤ s.cfg.imgLen) := by
  unfold State.commitBlock
  simp only [imgWrite_eq]
  split
  · rename_i h
    refine ⟨s.ioFail.tail, !s.ioFail.headD false && decide (s.card.imageCursor.toNat
      + (s.card.writeBuffer.take s.card.blockSize.toNat).length ≤ s.cfg.imgLen), rfl, ?_⟩
    intro hok
    simp only [Bool.and_eq_true, decide_eq_true_eq] at hok
    exact ⟨h.1, h.2, hok.2⟩
  · exact ⟨s.ioFail, false, rfl, by simp⟩

/-- A block at or beyond the end of the image changes no byte of it (70_reset_and_hazards.md R386). -/
theorem commitBlock_image_at_end {s : State} (h : s.cfg.imgLen ≤ s.card.imageCursor.toNat) :
    s.commitBlock.image = s.image := by
  obtain ⟨io, ok, e, hok⟩ := commitBlock_eq s
  rw [e]
  cases ok
  · rfl
  · have := (hok rfl).2.2
    rw [List.eq_nil_of_length_eq_zero
      (l := s.card.writeBuffer.take s.card.blockSize.toNat) (by omega)]
    rfl

end Sys2Proof.Laws
end

