-- ==== Sys2Proof/Laws/Eeprom.lean ====
section
/-! SUPPORT. The EEPROM's shared operations, each with what it can do said once: bits and their values, a
run of bits between the thresholds, and what a line operation can change. -/

namespace Sys2Proof.Laws

open Machine

/-! ## Bits, most significant first -/

@[simp] theorem msbBits_length (n v : Nat) : (msbBits n v).length = n := by
  induction n with
  | zero => rfl
  | succ n ih => simp [msbBits, ih]

theorem bitsValue_append (xs ys : List Bool) :
    bitsValue (xs ++ ys) = bitsValue xs * 2 ^ ys.length + bitsValue ys := by
  have h : ∀ (ys : List Bool) (acc : Nat),
      ys.foldl (fun acc b => 2 * acc + b.toNat) acc = acc * 2 ^ ys.length + bitsValue ys := by
    intro ys
    induction ys with
    | nil => simp [bitsValue]
    | cons b bs ih =>
      intro acc
      simp only [List.foldl_cons, bitsValue, List.length_cons] at ih ⊢
      rw [ih, ih (2 * 0 + b.toNat)]
      ring
  rw [bitsValue, List.foldl_append]
  exact h ys _

theorem bitsValue_msbBits (n v : Nat) : bitsValue (msbBits n v) = v % 2 ^ n := by
  induction n with
  | zero => simp [msbBits, bitsValue, Nat.mod_one]
  | succ n ih =>
    have h : bitsValue (v.testBit n :: msbBits n v) = (v.testBit n).toNat * 2 ^ n + v % 2 ^ n := by
      have := bitsValue_append [v.testBit n] (msbBits n v)
      rw [msbBits_length, ih] at this
      simpa [bitsValue] using this
    rw [msbBits, h, Nat.mod_pow_succ, Nat.testBit, Nat.shiftRight_eq_div_pow]
    have h2 := Nat.mod_two_eq_zero_or_one (v / 2 ^ n)
    rcases h2 with h2 | h2 <;> simp [Nat.one_and_eq_mod_two, h2]
    ring

/-- A run of bits is the digits of its value. -/
theorem msbBits_bitsValue (bits : List Bool) : msbBits bits.length (bitsValue bits) = bits := by
  have key : ∀ (n : Nat) (a b : Nat), a % 2 ^ n = b % 2 ^ n → msbBits n a = msbBits n b := by
    intro n
    induction n with
    | zero => intros; rfl
    | succ n ih =>
      intro a b h
      simp only [msbBits]
      have ht : a.testBit n = b.testBit n := by
        have := congrArg (fun x => x.testBit n) h
        simpa [Nat.testBit_mod_two_pow] using this
      have hr : a % 2 ^ n = b % 2 ^ n := by
        have := congrArg (fun x => x % 2 ^ n) h
        simpa [Nat.mod_mod_of_dvd, pow_succ] using this
      rw [ht, ih a b hr]
  induction bits with
  | nil => rfl
  | cons b bs ih =>
    have hv : bitsValue (b :: bs) = b.toNat * 2 ^ bs.length + bitsValue bs := by
      have := bitsValue_append [b] bs
      simpa [bitsValue] using this
    have hlt : bitsValue bs < 2 ^ bs.length := by
      have := bitsValue_msbBits bs.length (bitsValue bs)
      rw [ih] at this
      rw [this]
      exact Nat.mod_lt _ (by positivity)
    simp only [List.length_cons, msbBits]
    congr 1
    · rw [hv, Nat.testBit, Nat.shiftRight_eq_div_pow, Nat.add_comm, Nat.add_mul_div_right _ _ (by positivity),
        Nat.div_eq_of_lt hlt]
      cases b <;> rfl
    · rw [key _ _ (bitsValue bs), ih]
      rw [hv]
      simp

theorem bitsValue_lt (bits : List Bool) : bitsValue bits < 2 ^ bits.length := by
  have := bitsValue_msbBits bits.length (bitsValue bits)
  rw [msbBits_bitsValue] at this
  rw [this]
  exact Nat.mod_lt _ (by positivity)

/-! ## The input register -/

theorem getLsbD_shiftIn (sr : BitVec 29) (b : Bool) (i : Nat) :
    (shiftIn sr b).getLsbD i = if i = 0 then b else (decide (i < 29) && sr.getLsbD (i - 1)) := by
  simp only [shiftIn, BitVec.getLsbD_or, BitVec.getLsbD_shiftLeft]
  cases i with
  | zero => cases b <;> simp
  | succ i => cases b <;> simp

/-- The register's value, while no bit is pushed out. -/
theorem shiftIn_ofNat (v : Nat) (b : Bool) :
    shiftIn (BitVec.ofNat 29 v) b = BitVec.ofNat 29 (2 * v + b.toNat) := by
  apply BitVec.eq_of_getLsbD_eq
  intro i hi
  rw [getLsbD_shiftIn, BitVec.getLsbD_ofNat, BitVec.getLsbD_ofNat]
  cases i with
  | zero => cases b <;> simp
  | succ i =>
    have : (2 * v + b.toNat).testBit (i + 1) = v.testBit i := by
      rw [Nat.testBit_succ]
      congr 1
      cases b
      · simp
      · simp
        omega
    have h1 : i < 29 := by omega
    simp [this, hi, h1]

/-! ## A run of bits -/

/-- A rising edge of a selected controller that reads no stream: one bit shifted in, and the threshold of the
new count. -/
theorem writeClock_shift {e : SerialEeprom} (hcs : e.cs = true) (hck : e.ck = false)
    (hr : reading e.command = false) :
    e.writeClock true =
      { SerialEeprom.threshold { e with inSr := shiftIn e.inSr e.di, inCnt := e.inCnt + 1 } with
        ck := true } := by
  have hrise : e.risingEdge = e.shiftBit := by
    unfold SerialEeprom.risingEdge
    cases hc : e.command <;> simp_all [reading]
  rw [SerialEeprom.writeClock, if_pos ⟨hcs, hck, rfl⟩, hrise, SerialEeprom.shiftBit]

/-- `bit b` on a selected controller with the clock low that reads no stream: one bit shifted in, and the
threshold of the new count. -/
theorem clockBit_shift {e : SerialEeprom} (hcs : e.cs = true) (hck : e.ck = false)
    (hr : reading e.command = false) (b : Bool) :
    e.clockBit b =
      { SerialEeprom.threshold { e with di := b, inSr := shiftIn e.inSr b, inCnt := e.inCnt + 1 } with
        ck := false } := by
  rw [SerialEeprom.clockBit, writeClock_shift (e := e.writeData b) hcs hck hr, SerialEeprom.writeClock,
    if_neg (by simp)]
  rfl

/-- Between the thresholds a bit is only shifted in. -/
theorem threshold_none {e : SerialEeprom} (h : e.inCnt ∉ [1, 3, 5, 13, 29]) : e.threshold = e := by
  simp only [List.mem_cons, List.not_mem_nil, or_false, not_or] at h
  unfold SerialEeprom.threshold
  simp [h.1, h.2.1, h.2.2.1, h.2.2.2.1, h.2.2.2.2]

/-- A run of bits that reaches no threshold. -/
theorem clockBits_shift {e : SerialEeprom} (hcs : e.cs = true) (hck : e.ck = false)
    (hr : reading e.command = false) (bits : List Bool) {v : Nat}
    (hv : e.inSr = BitVec.ofNat 29 v)
    (hn : ∀ k, 0 < k → k ≤ bits.length → e.inCnt + k ∉ [1, 3, 5, 13, 29]) :
    e.clockBits bits =
      { e with
        di := bits.getLastD e.di
        inSr := BitVec.ofNat 29 (v * 2 ^ bits.length + bitsValue bits)
        inCnt := e.inCnt + bits.length } := by
  induction bits generalizing e v with
  | nil =>
    simp only [SerialEeprom.clockBits, List.foldl_nil, List.getLastD_nil, List.length_nil, bitsValue]
    rw [show v * 2 ^ 0 + 0 = v by simp, ← hv]
    rfl
  | cons b bs ih =>
    have h1 : e.clockBit b =
        { e with di := b, inSr := BitVec.ofNat 29 (2 * v + b.toNat), inCnt := e.inCnt + 1 } := by
      rw [clockBit_shift hcs hck hr, threshold_none (by simpa using hn 1 (by omega) (by simp)), hv,
        shiftIn_ofNat, ← hck]
    have hbv : bitsValue (b :: bs) = b.toNat * 2 ^ bs.length + bitsValue bs := by
      have := bitsValue_append [b] bs
      simpa [bitsValue] using this
    show (e.clockBit b).clockBits bs = _
    rw [h1, ih (e := { e with di := b, inSr := BitVec.ofNat 29 (2 * v + b.toNat), inCnt := e.inCnt + 1 })
      (v := 2 * v + b.toNat) hcs hck hr rfl
      (fun k hk hl => by
        have := hn (k + 1) (by omega) (by simpa using hl)
        rw [show e.inCnt + (k + 1) = e.inCnt + 1 + k by omega] at this
        exact this)]
    simp only [List.length_cons, hbv]
    congr 1
    · cases bs <;> rfl
    · congr 1
      ring
    · omega

theorem clockBits_append (e : SerialEeprom) (xs ys : List Bool) :
    e.clockBits (xs ++ ys) = (e.clockBits xs).clockBits ys := by
  simp [SerialEeprom.clockBits]

theorem clockBits_nil (e : SerialEeprom) : e.clockBits [] = e := rfl

theorem clockBits_cons (e : SerialEeprom) (b : Bool) (bs : List Bool) :
    e.clockBits (b :: bs) = (e.clockBit b).clockBits bs := rfl

/-! ## Frames from a boundary -/

/-- The controller after the first `n` bits of a frame, `v` their value: 5 to 12 bits in, or 14 to 28. -/
def midFrame (e : SerialEeprom) (c : EeCommand) (n v : Nat) (d : Bool) : SerialEeprom :=
  { e with di := d, inSr := BitVec.ofNat 29 v, inCnt := n, command := c }

/-- The first three bits of a frame decide the opcode class. -/
theorem frame_three {e : SerialEeprom} (h : e.AtBoundary) (b1 b0 : Bool) :
    e.clockBits [true, b1, b0] =
      midFrame e (if b1 then (if b0 then .erase else .read) else (if b0 then .write else .none)) 3
        (4 + 2 * b1.toNat + b0.toNat) b0 := by
  obtain ⟨hcs, hck, hsr, hcnt, hr⟩ := h
  have h1 : e.clockBit true = midFrame e .none 1 1 true := by
    rw [clockBit_shift hcs hck hr, hcnt, hsr]
    simp [SerialEeprom.threshold, SerialEeprom.startBit, midFrame, shiftIn, hck]
  have h2 : (midFrame e .none 1 1 true).clockBit b1 = midFrame e .none 2 (2 + b1.toNat) b1 := by
    rw [clockBit_shift (e := midFrame e .none 1 1 true) hcs hck rfl, threshold_none (by simp [midFrame])]
    simp only [midFrame, shiftIn_ofNat, hck]
  have h3 : (midFrame e .none 2 (2 + b1.toNat) b1).clockBit b0 =
      midFrame e (if b1 then (if b0 then .erase else .read) else (if b0 then .write else .none)) 3
        (4 + 2 * b1.toNat + b0.toNat) b0 := by
    rw [clockBit_shift (e := midFrame e .none 2 (2 + b1.toNat) b1) hcs hck rfl]
    simp only [midFrame, shiftIn_ofNat, SerialEeprom.threshold, SerialEeprom.opcodeClass]
    cases b1 <;> cases b0 <;> simp [hck]
  rw [clockBits_cons, h1, clockBits_cons, h2, clockBits_cons, h3, clockBits_nil]

/-- Two more bits decide the command of an extended frame. -/
theorem frame_five {e : SerialEeprom} (h : e.AtBoundary) (b1 b0 : Bool) :
    e.clockBits [true, false, false, b1, b0] =
      midFrame e
        (if b1 then (if b0 then .writeEnable else .eraseAll)
          else (if b0 then .writeAll else .writeDisable)) 5 (16 + 2 * b1.toNat + b0.toNat) b0 := by
  have h3 : e.clockBits [true, false, false] = midFrame e .none 3 4 false :=
    frame_three h false false
  obtain ⟨hcs, hck, -, -, -⟩ := h
  have h4 : (midFrame e .none 3 4 false).clockBit b1 = midFrame e .none 4 (8 + b1.toNat) b1 := by
    rw [clockBit_shift (e := midFrame e .none 3 4 false) hcs hck rfl, threshold_none (by simp [midFrame])]
    simp only [midFrame, shiftIn_ofNat, hck]
  have h5 : (midFrame e .none 4 (8 + b1.toNat) b1).clockBit b0 =
      midFrame e
        (if b1 then (if b0 then .writeEnable else .eraseAll)
          else (if b0 then .writeAll else .writeDisable)) 5 (16 + 2 * b1.toNat + b0.toNat) b0 := by
    rw [clockBit_shift (e := midFrame e .none 4 (8 + b1.toNat) b1) hcs hck rfl]
    simp only [midFrame, shiftIn_ofNat, SerialEeprom.threshold, SerialEeprom.subOpcode]
    cases b1 <;> cases b0 <;> simp [hck]
  rw [show [true, false, false, b1, b0] = [true, false, false] ++ [b1, b0] from rfl,
    clockBits_append, h3, clockBits_cons, h4, clockBits_cons, h5, clockBits_nil]

/-- One more bit of a frame whose command is decoded, away from the thresholds 13 and 29. -/
theorem midFrame_bit {e : SerialEeprom} (hcs : e.cs = true) (hck : e.ck = false) {c : EeCommand}
    (hr : reading c = false) (hc : c ≠ .none) {n v : Nat} (hn : 3 ≤ n) (h13 : n ≠ 12) (h29 : n ≠ 28)
    (d b : Bool) :
    (midFrame e c n v d).clockBit b = midFrame e c (n + 1) (2 * v + b.toNat) b := by
  rw [clockBit_shift (e := midFrame e c n v d) hcs hck hr]
  have h : ∀ f : SerialEeprom, f.inCnt = n + 1 → f.command = c → f.threshold = f := by
    intro f h1 h2
    unfold SerialEeprom.threshold
    rw [h1, if_neg (by omega), if_neg (by omega)]
    by_cases h5 : n + 1 = 5
    · rw [if_pos h5, SerialEeprom.subOpcode, h2, if_neg hc]
    · rw [if_neg h5, if_neg (by omega), if_neg (by omega)]
  rw [h _ rfl rfl]
  simp only [midFrame, shiftIn_ofNat, hck]

/-- A run of bits of a frame whose command is decoded, between the thresholds 13 and 29. -/
theorem midFrame_bits {e : SerialEeprom} (hcs : e.cs = true) (hck : e.ck = false) {c : EeCommand}
    (hr : reading c = false) (hc : c ≠ .none) (bits : List Bool) {n v : Nat} (hn : 3 ≤ n)
    (h : n + bits.length ≤ 12 ∨ (13 ≤ n ∧ n + bits.length ≤ 28)) (d : Bool) :
    (midFrame e c n v d).clockBits bits =
      midFrame e c (n + bits.length) (v * 2 ^ bits.length + bitsValue bits) (bits.getLastD d) := by
  induction bits generalizing n v d with
  | nil => simp [clockBits_nil, bitsValue]
  | cons b bs ih =>
    simp only [List.length_cons] at h ⊢
    have hbv : bitsValue (b :: bs) = b.toNat * 2 ^ bs.length + bitsValue bs := by
      have := bitsValue_append [b] bs
      simpa [bitsValue] using this
    rw [clockBits_cons, midFrame_bit hcs hck hr hc hn (by omega) (by omega),
      ih (by omega) (by omega), hbv]
    congr 1
    · omega
    · ring
    · cases bs <;> rfl

/-- The thirteenth bit: the rule of the address. -/
theorem midFrame_thirteenth {e : SerialEeprom} (hcs : e.cs = true) (hck : e.ck = false) {c : EeCommand}
    (hr : reading c = false) {v : Nat} (d b : Bool) :
    (midFrame e c 12 v d).clockBit b =
      { (midFrame e c 13 (2 * v + b.toNat) b).addressDone with ck := false } := by
  rw [clockBit_shift (e := midFrame e c 12 v d) hcs hck hr]
  have h : ∀ f : SerialEeprom, f.inCnt = 13 → f.threshold = f.addressDone := by
    intro f h1
    simp [SerialEeprom.threshold, h1]
  rw [h _ rfl]
  simp only [midFrame, shiftIn_ofNat]

/-- The twenty-ninth bit: the rule of the data. -/
theorem midFrame_twentyninth {e : SerialEeprom} (hcs : e.cs = true) (hck : e.ck = false)
    {c : EeCommand} (hr : reading c = false) {v : Nat} (d b : Bool) :
    (midFrame e c 28 v d).clockBit b =
      { (midFrame e c 29 (2 * v + b.toNat) b).dataDone with ck := false } := by
  rw [clockBit_shift (e := midFrame e c 28 v d) hcs hck hr]
  have h : ∀ f : SerialEeprom, f.inCnt = 29 → f.threshold = f.dataDone := by
    intro f h1
    simp [SerialEeprom.threshold, h1]
  rw [h _ rfl]
  simp only [midFrame, shiftIn_ofNat]

/-- The bits of a number, all but the last and the last. -/
theorem msbBits_succ_last (n v : Nat) :
    msbBits (n + 1) v = msbBits n (v / 2) ++ [v.testBit 0] := by
  induction n generalizing v with
  | zero => rfl
  | succ n ih =>
    rw [msbBits, ih v, msbBits, Nat.testBit_succ]
    rfl

/-- A frame that ends at its thirteenth bit: `n` bits of command, then the rest of the address field. -/
theorem frame_thirteen {e : SerialEeprom} (hcs : e.cs = true) (hck : e.ck = false) {c : EeCommand}
    (hr : reading c = false) (hc : c ≠ .none) {n m v w : Nat} (hn : 3 ≤ n) (hm : n + (m + 1) = 13)
    (hw : w < 2 ^ (m + 1)) (d : Bool) :
    (midFrame e c n v d).clockBits (msbBits (m + 1) w) =
      { (midFrame e c 13 (v * 2 ^ (m + 1) + w) (w.testBit 0)).addressDone with ck := false } := by
  rw [msbBits_succ_last, clockBits_append,
    midFrame_bits hcs hck hr hc _ hn (by simp only [msbBits_length]; omega), clockBits_cons,
    clockBits_nil]
  simp only [msbBits_length, bitsValue_msbBits]
  rw [show n + m = 12 by omega, midFrame_thirteenth hcs hck hr]
  have h1 : w / 2 % 2 ^ m = w / 2 := Nat.mod_eq_of_lt (by rw [pow_succ] at hw; omega)
  have h2 : 2 * (v * 2 ^ m + w / 2) + (w.testBit 0).toNat = v * 2 ^ (m + 1) + w := by
    have : (w.testBit 0).toNat = w % 2 := by
      rw [Nat.testBit_zero]
      rcases Nat.mod_two_eq_zero_or_one w with h | h <;> simp [h]
    rw [this, pow_succ, ← Nat.mul_assoc]
    omega
  rw [h1, h2]

/-- The data word of a frame: sixteen bits after the thirteenth. -/
theorem frame_twentynine {e : SerialEeprom} (hcs : e.cs = true) (hck : e.ck = false) {c : EeCommand}
    (hr : reading c = false) (hc : c ≠ .none) {v w : Nat} (hw : w < 2 ^ 16) (d : Bool) :
    (midFrame e c 13 v d).clockBits (msbBits 16 w) =
      { (midFrame e c 29 (v * 2 ^ 16 + w) (w.testBit 0)).dataDone with ck := false } := by
  rw [show (16 : Nat) = 15 + 1 from rfl, msbBits_succ_last, clockBits_append,
    midFrame_bits hcs hck hr hc _ (by omega) (by simp only [msbBits_length]; omega), clockBits_cons,
    clockBits_nil]
  simp only [msbBits_length, bitsValue_msbBits]
  rw [midFrame_twentyninth hcs hck hr]
  have h1 : w / 2 % 2 ^ 15 = w / 2 := Nat.mod_eq_of_lt (by omega)
  have h2 : 2 * (v * 2 ^ 15 + w / 2) + (w.testBit 0).toNat = v * 2 ^ (15 + 1) + w := by
    have : (w.testBit 0).toNat = w % 2 := by
      rw [Nat.testBit_zero]
      rcases Nat.mod_two_eq_zero_or_one w with h | h <;> simp [h]
    rw [this, pow_succ]
    omega
  rw [h1, h2]

/-! ## The operands in the input register -/

theorem extract_ofNat (n m : Nat) (h : m ≤ 29) :
    (BitVec.ofNat 29 n).extractLsb' 0 m = BitVec.ofNat m n := by
  apply BitVec.eq_of_getLsbD_eq
  intro i hi
  rw [BitVec.getLsbD_extractLsb', BitVec.getLsbD_ofNat, BitVec.getLsbD_ofNat]
  simp [show i < 29 by omega]

/-- The low bits of a frame are its last operand. -/
theorem ofNat_operand {n : Nat} (k : Nat) (a : BitVec n) : BitVec.ofNat n (k * 2 ^ n + a.toNat) = a := by
  apply BitVec.eq_of_toNat_eq
  rw [BitVec.toNat_ofNat, Nat.add_comm, Nat.add_mul_mod_self_right, Nat.mod_eq_of_lt a.isLt]

/-- A thirteen-bit frame of the class READ, WRITE or ERASE, at its address rule. -/
theorem frame_class {e : SerialEeprom} (h : e.AtBoundary) (b1 b0 : Bool) {c : EeCommand}
    (hc : c = if b1 then (if b0 then .erase else .read) else (if b0 then .write else .none))
    (hn : c ≠ .none) (hr : reading c = false) (a : BitVec 10) :
    e.clockBits ([true, b1, b0] ++ msbBits 10 a.toNat) =
      { (midFrame e c 13 ((4 + 2 * b1.toNat + b0.toNat) * 2 ^ 10 + a.toNat)
          (a.getLsbD 0)).addressDone with ck := false } := by
  rw [clockBits_append, frame_three h, ← hc]
  exact frame_thirteen h.1 h.2.1 hr hn (m := 9) (by omega) rfl a.isLt _

/-- A thirteen-bit frame of the extended class, at its address rule. -/
theorem frame_extended {e : SerialEeprom} (h : e.AtBoundary) (b1 b0 : Bool) {c : EeCommand}
    (hc : c = if b1 then (if b0 then .writeEnable else .eraseAll)
      else (if b0 then .writeAll else .writeDisable))
    (hn : c ≠ .none) (hr : reading c = false) (x : BitVec 8) :
    e.clockBits ([true, false, false, b1, b0] ++ msbBits 8 x.toNat) =
      { (midFrame e c 13 ((16 + 2 * b1.toNat + b0.toNat) * 2 ^ 8 + x.toNat)
          (x.getLsbD 0)).addressDone with ck := false } := by
  rw [clockBits_append, frame_five h, ← hc]
  exact frame_thirteen h.1 h.2.1 hr hn (m := 7) (by omega) rfl x.isLt _

end Sys2Proof.Laws
end

