-- ==== Sys2Proof/Laws/Flash.lean ====
section
/-! SUPPORT. The FlashChip's shared operations, each with what it can do said once: the store, the read,
the sector set and the expiry handler. -/

namespace Sys2Proof.Laws

open Machine

/-! ## The store -/

@[simp] theorem programData_data (f : FlashChip) (a : Nat) (b : Byte) :
    (f.programData a b).data = f.data.write a (f.data.read a &&& b) := by
  unfold FlashChip.programData
  simp only
  split <;> rfl

@[simp] theorem programData_lastRead (f : FlashChip) (a : Nat) (b : Byte) :
    (f.programData a b).lastRead = f.lastRead := by
  unfold FlashChip.programData
  simp only
  split <;> rfl

@[simp] theorem programData_programByte (f : FlashChip) (a : Nat) (b : Byte) :
    (f.programData a b).programByte = b := by
  unfold FlashChip.programData
  simp only
  split <;> rfl

/-- Everything a store can do, arm by arm. -/
theorem store_cases (f : FlashChip) (c : Config) (clk a : Nat) (b : Byte) :
    f.store c clk a b = f
    ∨ (f.store c clk a b = f.gotoBase ∧
        f.seq ∈ [FlashState.unlock1, .unlock2, .eraseUnlock1, .eraseUnlock2, .eraseSelect])
    ∨ (∃ q ∈ [FlashState.unlock1, .unlock2, .byteProgram, .eraseUnlock1, .eraseUnlock2, .eraseSelect],
        f.store c clk a b = f.goto q ∧
        f.seq ∈ [FlashState.read, .unlock1, .unlock2, .eraseUnlock1, .eraseUnlock2,
          .byteProgramError, .autoselect] ∧ (q = .byteProgram → f.seq = .unlock2))
    ∨ (f.store c clk a b = f.autoselect ∧ f.seq = .unlock2)
    ∨ (f.store c clk a b = f.returnToRead ∧
        f.seq ∈ [FlashState.unlock2, .byteProgramError, .autoselect])
    ∨ (f.store c clk a b = f.programData a b ∧ f.seq = .byteProgram)
    ∨ (f.store c clk a b = f.chipErase c clk ∧ f.seq = .eraseSelect)
    ∨ (f.store c clk a b = f.sectorErase c clk a ∧ f.seq = .eraseSelect)
    ∨ (f.store c clk a b = f.sectorAdd c a ∧ f.seq = .sectorEraseTimeout)
    ∨ (f.store c clk a b = f.eraseCancel ∧ f.seq = .sectorEraseTimeout)
    ∨ (f.store c clk a b = f.eraseSuspend ∧ f.seq = .sectorErase)
    ∨ (f.store c clk a b = f.eraseResume c clk ∧ f.seq = .sectorEraseSuspend) := by
  unfold FlashChip.store
  cases hs : f.seq <;> simp only
  case read =>
    split
    · exact .inr (.inr (.inl ⟨.unlock1, by simp, rfl, by simp, by simp⟩))
    · exact .inl rfl
  case unlock1 =>
    split
    · exact .inr (.inr (.inl ⟨.unlock2, by simp, rfl, by simp, by simp⟩))
    · exact .inr (.inl ⟨rfl, by simp⟩)
  case unlock2 =>
    split
    · split
      · exact .inr (.inr (.inr (.inl ⟨rfl, by simp⟩)))
      · split
        · exact .inr (.inr (.inr (.inr (.inl ⟨rfl, by simp⟩))))
        · split
          · exact .inr (.inr (.inl ⟨.byteProgram, by simp, rfl, by simp, by simp⟩))
          · split
            · exact .inr (.inr (.inl ⟨.eraseUnlock1, by simp, rfl, by simp, by simp⟩))
            · exact .inr (.inl ⟨rfl, by simp⟩)
    · exact .inr (.inl ⟨rfl, by simp⟩)
  case byteProgram => exact .inr (.inr (.inr (.inr (.inr (.inl (by simp))))))
  case eraseUnlock1 =>
    split
    · exact .inr (.inr (.inl ⟨.eraseUnlock2, by simp, rfl, by simp, by simp⟩))
    · exact .inr (.inl ⟨rfl, by simp⟩)
  case eraseUnlock2 =>
    split
    · exact .inr (.inr (.inl ⟨.eraseSelect, by simp, rfl, by simp, by simp⟩))
    · exact .inr (.inl ⟨rfl, by simp⟩)
  case eraseSelect =>
    split
    · exact .inr (.inr (.inr (.inr (.inr (.inr (.inl ⟨rfl, by simp⟩))))))
    · split
      · exact .inr (.inr (.inr (.inr (.inr (.inr (.inr (.inl ⟨rfl, by simp⟩)))))))
      · exact .inr (.inl ⟨rfl, by simp⟩)
  case chipErase => exact .inl rfl
  case sectorErase =>
    split
    · exact .inr (.inr (.inr (.inr (.inr (.inr (.inr (.inr (.inr (.inr (.inl ⟨rfl, by simp⟩))))))))))
    · exact .inl rfl
  case sectorEraseTimeout =>
    split
    · exact .inr (.inr (.inr (.inr (.inr (.inr (.inr (.inr (.inl ⟨rfl, by simp⟩))))))))
    · exact .inr (.inr (.inr (.inr (.inr (.inr (.inr (.inr (.inr (.inl ⟨rfl, by simp⟩)))))))))
  case sectorEraseSuspend =>
    split
    · exact .inr (.inr (.inr (.inr (.inr (.inr (.inr (.inr (.inr (.inr (.inr ⟨rfl, by simp⟩))))))))))
    · exact .inl rfl
  all_goals
    split
    · exact .inr (.inr (.inl ⟨.unlock1, by simp, rfl, by simp, by simp⟩))
    · split
      · exact .inr (.inr (.inr (.inr (.inl ⟨rfl, by simp⟩))))
      · exact .inl rfl

/-- A store changes the array only in `ByteProgram`, and then one byte, by `and`. -/
theorem store_data (f : FlashChip) (c : Config) (clk a : Nat) (b : Byte) :
    (f.store c clk a b).data =
      if f.seq = .byteProgram then f.data.write a (f.data.read a &&& b) else f.data := by
  unfold FlashChip.store
  cases hs : f.seq <;> simp only [reduceCtorEq, if_true, if_false] <;>
    first
    | exact programData_data f a b
    | rfl
    | (repeat' split) <;> rfl

/-- A store never writes `last_read`. -/
@[simp] theorem store_lastRead (f : FlashChip) (c : Config) (clk a : Nat) (b : Byte) :
    (f.store c clk a b).lastRead = f.lastRead := by
  unfold FlashChip.store
  cases hs : f.seq <;> simp only <;>
    first
    | exact programData_lastRead f a b
    | rfl
    | (repeat' split) <;> rfl

/-- Only a program set-up, or a fall-back to it, leads to `ByteProgram`. -/
theorem store_seq_byteProgram {f : FlashChip} {c : Config} {clk a : Nat} {b : Byte}
    (hb : f.baseState ≠ .byteProgram) (h : (f.store c clk a b).seq = .byteProgram) :
    f.seq = .unlock2 := by
  unfold FlashChip.store at h
  cases hs : f.seq <;> rw [hs] at h <;> simp only at h
  case byteProgram =>
    exfalso
    simp only [FlashChip.programData] at h
    split at h
    · cases h
    · exact hb h
  case chipErase => simp [FlashChip.ignoreChipErase, hs] at h
  all_goals
    exfalso
    (repeat' split at h) <;>
      first
      | exact hb h
      | simp [FlashChip.unlockA, FlashChip.ignoreRead, FlashChip.unlockB, FlashChip.reunlock,
          FlashChip.resetShort, FlashChip.ignoreErrorAutoselect, FlashChip.eraseUnlockA,
          FlashChip.eraseUnlockB, FlashChip.chipErase, FlashChip.sectorErase, FlashChip.sectorAdd,
          FlashChip.eraseSuspend, FlashChip.ignoreSectorErase, FlashChip.eraseResume, hs] at h

/-- The cycle of a decoded write is the cycle itself. -/
theorem encode_decodeWrite (v : Variant) (q : FlashState) (a : Nat) (b : Byte) :
    encode (decodeWrite v q a b) = .flWrite a b false := by
  unfold decodeWrite
  cases q <;> simp only <;> (repeat' split) <;> simp_all [encode]

/-- Executing a decoded write is the internal store. -/
theorem exec_decodeWrite {s : State} {a : Nat} (h : a < s.cfg.variant.size) (b : Byte) :
    exec (decodeWrite s.cfg.variant s.flash.seq a b) s =
      .next (s.setFlash (s.flash.store s.cfg s.clk a b)) := by
  rw [exec_eq_perform, encode_decodeWrite]
  exact storeCycle_of_lt h b

/-! ## The read -/

/-- A read writes `last_read` always, `program_byte` in an erase state, and nothing else. -/
theorem afterRead_eq (f : FlashChip) (c : Config) (clk a : Nat) :
    f.afterRead c clk a = { f with
      lastRead := f.readValue c clk a
      programByte := if inErase f.seq then toggled c.variant f.programByte else f.programByte } := rfl

/-! ## The set of queued sectors -/

theorem getLsbD_markSector (p : BitVec 64) (i j : Nat) :
    (markSector p i).getLsbD j = (p.getLsbD j || (decide (i < 64) && decide (j = i))) := by
  simp only [markSector, BitVec.getLsbD_or, BitVec.getLsbD_shiftLeft, BitVec.getLsbD_one]
  congr 1
  by_cases h : j = i
  · subst h
    by_cases hj : j < 64 <;> simp [hj]
  · by_cases hlt : j < i
    · simp [h, hlt]
    · have : j - i ≠ 0 := by omega
      simp [h, this]

theorem getLsbD_dropSector (p : BitVec 64) (i j : Nat) :
    (dropSector p i).getLsbD j = (p.getLsbD j && decide (j ≠ i)) := by
  simp only [dropSector, BitVec.getLsbD_and, BitVec.getLsbD_not, BitVec.getLsbD_shiftLeft,
    BitVec.getLsbD_one]
  by_cases hp : p.getLsbD j
  · have hj : j < 64 := by
      by_contra hc
      rw [BitVec.getLsbD_of_ge _ _ (by omega)] at hp
      cases hp
    by_cases h : j = i
    · subst h
      simp [hj]
    · by_cases hlt : j < i
      · simp [h, hlt, hj]
      · have : j - i ≠ 0 := by omega
        simp [h, this, hj]
  · simp [hp]

/-- The sector popped is the smallest member. -/
theorem lowestSector_eq_some {p : BitVec 64} {i : Nat} :
    lowestSector p = some i ↔ i < 64 ∧ p.getLsbD i = true ∧ ∀ j < i, p.getLsbD j = false := by
  rw [lowestSector, List.find?_range_eq_some]
  constructor
  · rintro ⟨h1, h2, h3⟩
    exact ⟨List.mem_range.mp h2, h1, fun j hj => by simpa using h3 j hj⟩
  · rintro ⟨h1, h2, h3⟩
    exact ⟨h2, List.mem_range.mpr h1, fun j hj => by simpa using h3 j hj⟩

/-- Nothing is popped exactly when the set is empty. -/
theorem lowestSector_eq_none {p : BitVec 64} : lowestSector p = none ↔ p = 0#64 := by
  rw [lowestSector, List.find?_range_eq_none]
  constructor
  · intro h
    apply BitVec.eq_of_getLsbD_eq
    intro i hi
    simpa using h i hi
  · rintro rfl i _
    simp

/-! ## Expiry -/

/-- Everything the expiry of a sector erase can do. -/
theorem expireSector_cases (f : FlashChip) (c : Config) (clk : Nat) :
    (f.pending = 0#64 ∧ f.expireSector c clk = f.gotoBase)
    ∨ ∃ i, lowestSector f.pending = some i ∧
      f.expireSector c clk =
        { f with
          pending := dropSector f.pending i
          data := if i <<< c.variant.sectorShift < c.variant.size
            then f.data.erase (i <<< c.variant.sectorShift) c.variant.sectorSize else f.data
          dirty := if i <<< c.variant.sectorShift < c.variant.size then true else f.dirty
          seq := if dropSector f.pending i = 0#64 then f.baseState else f.seq
          eraseTimer := if dropSector f.pending i = 0#64 then f.eraseTimer
            else some (clk + c.tSectorErase) } := by
  unfold FlashChip.expireSector
  cases h : lowestSector f.pending with
  | none => exact .inl ⟨lowestSector_eq_none.mp h, rfl⟩
  | some i =>
    refine .inr ⟨i, rfl, ?_⟩
    simp only [FlashChip.fillSector]
    split
    · by_cases hp : dropSector f.pending i = 0#64 <;> simp [FlashChip.fill, hp] <;> rfl
    · by_cases hp : dropSector f.pending i = 0#64 <;> simp [hp] <;> rfl

/-- A tick before the target only counts. -/
theorem tick_of_ne {s : State} (h : s.flash.eraseTimer ≠ some (s.clk + 1)) :
    s.tick = { s with clk := s.clk + 1 } := by simp [State.tick, h]

/-- The tick that reaches the target runs the handler. -/
theorem tick_of_eq {s : State} (h : s.flash.eraseTimer = some (s.clk + 1)) :
    s.tick = { s with
      clk := s.clk + 1, flash := s.flash.expire s.cfg (s.clk + 1) } := by simp [State.tick, h]; rfl

/-- The expiry as a step of its own runs the handler when the timer is due. -/
theorem expireStep_of_due {s : State} {t : Nat} (h : s.flash.eraseTimer = some t) (ht : t ≤ s.clk) :
    s.expireStep = { s with flash := s.flash.expire s.cfg s.clk } := by
  simp [State.expireStep, FlashChip.due, h, ht]; rfl

theorem expireStep_of_not_due {s : State} (h : s.flash.due s.clk = false) : s.expireStep = s := by
  simp [State.expireStep, h]

end Sys2Proof.Laws
end

