-- ==== Sys2Proof/Laws/PerInstr.lean ====
section
/-! SUPPORT. Statements made for each instruction as syntax: the interface its encoding is presented at
and the number of units it takes there (30_encoding.md R110, R116, R117, R120, R122). -/

namespace Sys2Proof.Laws.UnitOfEngine

/-- The three interfaces (00_scope.md R2). -/
inductive Port where
  | flash
  | eeprom
  | card
  deriving DecidableEq, Repr

/-- The interface of an operation. -/
def port : Op → Port
  | .flRead _ | .flWrite _ _ _ | .flPeek _ | .flReset | .flTick | .flExpire | .flSave | .flLoad _ _
  | .flClearDirty => .flash
  | .eeSelect _ | .eeClock _ | .eeData _ | .eeReadData | .eeReset | .eeFrame _ => .eeprom
  | .sdWrite _ | .sdRead | .sdReset | .sdFrame _ => .card

/-- The number of cycles, bits, line operations or bytes of an operation. -/
def units : Op → Nat
  | .eeFrame bits => bits.length
  | .sdFrame bytes => bytes.length
  | .flRead _ | .flWrite _ _ _ | .flPeek _ | .flReset | .flTick | .flExpire | .flSave | .flLoad _ _
  | .flClearDirty | .eeSelect _ | .eeClock _ | .eeData _ | .eeReadData | .eeReset | .sdWrite _ | .sdRead
  | .sdReset => 1

/-- The interface and the length that the encoding tables give the instruction's row. -/
def row : Instr → Port × Nat
  | .flUnlockA _ | .flIgnoreRead _ _ | .flUnlockB _ | .flAbortUnlock1 _ _ | .flAutoselect _
  | .flResetLong _ | .flProgramSetup _ | .flEraseSetup _ | .flAbortUnlock2 _ _
  | .flProgramData _ _ | .flEraseUnlockA _ | .flAbortEraseunlock1 _ _ | .flEraseUnlockB _
  | .flAbortEraseunlock2 _ _ | .flChipErase _ | .flSectorErase _ | .flAbortEraseselect _ _
  | .flSectorAdd _ | .flEraseCancel _ _ | .flEraseSuspend _ | .flEraseResume _
  | .flIgnoreSectorerase _ _ | .flIgnoreChiperase _ _ | .flReunlock _ | .flResetShort _
  | .flIgnoreErrorAutoselect _ _ | .flRmw _ _ | .flReadArray _ | .flReadId _ | .flReadPstatus _
  | .flReadEstatus _ | .flPeek _ | .flHwReset | .flTick | .flExpireTimeout | .flExpireSector
  | .flExpireChip | .flSnapshotSave | .flSnapshotLoad _ _ => (.flash, 1)
  | .eeRead _ => (.eeprom, 13)
  | .eeWrite _ _ => (.eeprom, 29)
  | .eeErase _ | .eeWds _ => (.eeprom, 13)
  | .eeWral _ _ => (.eeprom, 29)
  | .eeEral _ | .eeWen _ => (.eeprom, 13)
  | .eeZeroStart | .eeCsRise | .eeCsFall | .eeClk _ | .eeDi _ | .eeDo | .eeDummyEdge
  | .eeStreamEdge | .eeReset => (.eeprom, 1)
  | .sdCmd0 _ | .sdCmd1 _ => (.card, 6)
  | .sdCmd8 _ _ _ | .sdCmd9 _ _ _ | .sdCmd10 _ _ _ => (.card, 9)
  | .sdCmd12 _ => (.card, 6)
  | .sdCmd16 _ _ _ => (.card, 9)
  | .sdCmd17 _ | .sdCmd24 _ | .sdAcmd41 _ | .sdCmd55 _ | .sdCmd58 _ | .sdUnknown _ _ => (.card, 6)
  | .sdWtoken | .sdWdata _ | .sdWcrc _ | .sdRxReturnwrite | .sdRxReset | .sdRxInit | .sdRxStream
  | .sdRxIdle | .sdReset => (.card, 1)

/-- An instruction's encoding is presented at its row's interface, in as many units as the row has. -/
def Statement (i : Instr) : Prop := (port (encode i), units (encode i)) = row i

theorem flUnlockA (addr : Nat) : Statement (.flUnlockA addr) := rfl
theorem flIgnoreRead (addr : Nat) (data : Byte) : Statement (.flIgnoreRead addr data) := rfl
theorem flUnlockB (addr : Nat) : Statement (.flUnlockB addr) := rfl
theorem flAbortUnlock1 (addr : Nat) (data : Byte) : Statement (.flAbortUnlock1 addr data) := rfl
theorem flAutoselect (addr : Nat) : Statement (.flAutoselect addr) := rfl
theorem flResetLong (addr : Nat) : Statement (.flResetLong addr) := rfl
theorem flProgramSetup (addr : Nat) : Statement (.flProgramSetup addr) := rfl
theorem flEraseSetup (addr : Nat) : Statement (.flEraseSetup addr) := rfl
theorem flAbortUnlock2 (addr : Nat) (data : Byte) : Statement (.flAbortUnlock2 addr data) := rfl
theorem flProgramData (addr : Nat) (data : Byte) : Statement (.flProgramData addr data) := rfl
theorem flEraseUnlockA (addr : Nat) : Statement (.flEraseUnlockA addr) := rfl
theorem flAbortEraseunlock1 (addr : Nat) (data : Byte) : Statement (.flAbortEraseunlock1 addr data) := rfl
theorem flEraseUnlockB (addr : Nat) : Statement (.flEraseUnlockB addr) := rfl
theorem flAbortEraseunlock2 (addr : Nat) (data : Byte) : Statement (.flAbortEraseunlock2 addr data) := rfl
theorem flChipErase (addr : Nat) : Statement (.flChipErase addr) := rfl
theorem flSectorErase (addr : Nat) : Statement (.flSectorErase addr) := rfl
theorem flAbortEraseselect (addr : Nat) (data : Byte) : Statement (.flAbortEraseselect addr data) := rfl
theorem flSectorAdd (addr : Nat) : Statement (.flSectorAdd addr) := rfl
theorem flEraseCancel (addr : Nat) (data : Byte) : Statement (.flEraseCancel addr data) := rfl
theorem flEraseSuspend (addr : Nat) : Statement (.flEraseSuspend addr) := rfl
theorem flEraseResume (addr : Nat) : Statement (.flEraseResume addr) := rfl
theorem flIgnoreSectorerase (addr : Nat) (data : Byte) : Statement (.flIgnoreSectorerase addr data) := rfl
theorem flIgnoreChiperase (addr : Nat) (data : Byte) : Statement (.flIgnoreChiperase addr data) := rfl
theorem flReunlock (addr : Nat) : Statement (.flReunlock addr) := rfl
theorem flResetShort (addr : Nat) : Statement (.flResetShort addr) := rfl
theorem flIgnoreErrorAutoselect (addr : Nat) (data : Byte) : Statement (.flIgnoreErrorAutoselect addr data) := rfl
theorem flRmw (addr : Nat) (data : Byte) : Statement (.flRmw addr data) := rfl
theorem flReadArray (addr : Nat) : Statement (.flReadArray addr) := rfl
theorem flReadId (addr : Nat) : Statement (.flReadId addr) := rfl
theorem flReadPstatus (addr : Nat) : Statement (.flReadPstatus addr) := rfl
theorem flReadEstatus (addr : Nat) : Statement (.flReadEstatus addr) := rfl
theorem flPeek (addr : Nat) : Statement (.flPeek addr) := rfl
theorem flHwReset : Statement .flHwReset := rfl
theorem flTick : Statement .flTick := rfl
theorem flExpireTimeout : Statement .flExpireTimeout := rfl
theorem flExpireSector : Statement .flExpireSector := rfl
theorem flExpireChip : Statement .flExpireChip := rfl
theorem flSnapshotSave : Statement .flSnapshotSave := rfl
theorem flSnapshotLoad (major : Nat) (bytes : List Byte) : Statement (.flSnapshotLoad major bytes) := rfl
theorem eeRead (a : BitVec 10) : Statement (.eeRead a) := rfl
theorem eeWrite (a : BitVec 10) (d : BitVec 16) : Statement (.eeWrite a d) := rfl
theorem eeErase (a : BitVec 10) : Statement (.eeErase a) := rfl
theorem eeWds (x : BitVec 8) : Statement (.eeWds x) := rfl
theorem eeWral (x : BitVec 8) (d : BitVec 16) : Statement (.eeWral x d) := rfl
theorem eeEral (x : BitVec 8) : Statement (.eeEral x) := rfl
theorem eeWen (x : BitVec 8) : Statement (.eeWen x) := rfl
theorem eeZeroStart : Statement .eeZeroStart := rfl
theorem eeCsRise : Statement .eeCsRise := rfl
theorem eeCsFall : Statement .eeCsFall := rfl
theorem eeClk (v : Bool) : Statement (.eeClk v) := rfl
theorem eeDi (b : Bool) : Statement (.eeDi b) := rfl
theorem eeDo : Statement .eeDo := rfl
theorem eeDummyEdge : Statement .eeDummyEdge := rfl
theorem eeStreamEdge : Statement .eeStreamEdge := rfl
theorem eeReset : Statement .eeReset := rfl
theorem sdCmd0 (arg : BitVec 32) : Statement (.sdCmd0 arg) := rfl
theorem sdCmd1 (arg : BitVec 32) : Statement (.sdCmd1 arg) := rfl
theorem sdCmd8 (arg : BitVec 32) (crc : Byte) (x : BitVec 16) : Statement (.sdCmd8 arg crc x) := rfl
theorem sdCmd9 (arg : BitVec 32) (crc : Byte) (x : BitVec 16) : Statement (.sdCmd9 arg crc x) := rfl
theorem sdCmd10 (arg : BitVec 32) (crc : Byte) (x : BitVec 16) : Statement (.sdCmd10 arg crc x) := rfl
theorem sdCmd12 (arg : BitVec 32) : Statement (.sdCmd12 arg) := rfl
theorem sdCmd16 (arg : BitVec 32) (crc : Byte) (x : BitVec 16) : Statement (.sdCmd16 arg crc x) := rfl
theorem sdCmd17 (arg : BitVec 32) : Statement (.sdCmd17 arg) := rfl
theorem sdCmd24 (arg : BitVec 32) : Statement (.sdCmd24 arg) := rfl
theorem sdAcmd41 (arg : BitVec 32) : Statement (.sdAcmd41 arg) := rfl
theorem sdCmd55 (arg : BitVec 32) : Statement (.sdCmd55 arg) := rfl
theorem sdCmd58 (arg : BitVec 32) : Statement (.sdCmd58 arg) := rfl
theorem sdUnknown (c : Byte) (arg : BitVec 32) : Statement (.sdUnknown c arg) := rfl
theorem sdWtoken : Statement .sdWtoken := rfl
theorem sdWdata (b : Byte) : Statement (.sdWdata b) := rfl
theorem sdWcrc (b : Byte) : Statement (.sdWcrc b) := rfl
theorem sdRxReturnwrite : Statement .sdRxReturnwrite := rfl
theorem sdRxReset : Statement .sdRxReset := rfl
theorem sdRxInit : Statement .sdRxInit := rfl
theorem sdRxStream : Statement .sdRxStream := rfl
theorem sdRxIdle : Statement .sdRxIdle := rfl
theorem sdReset : Statement .sdReset := rfl

end Sys2Proof.Laws.UnitOfEngine
end

