-- ==== Sys2Proof/Tests/Slice0.lean ====
section
/-! SUPPORT. Tests on fixed values, each proved by `decide`: the well-formedness checks, the decoding of
every row from its unit as spec/30_encoding.md writes it, single steps with the results that
spec/95_test_vectors.md gives (its vector is named in each comment), and the witnesses: for every
statement with hypotheses, states and operands that meet them. -/

namespace Sys2Proof.Tests

open Sys2Proof Machine

/-! ## Helpers -/

/-- The reference instance of 95_test_vectors.md section 0, all responses empty. -/
def ref : Config where
  variant := Variant.v29F040
  tSectorTimeout := 4
  tSectorErase := 10
  tChipErase := 20
  dq6ClkBit := 0
  progStatusExtra := 0x20#6
  snapshotMajor := 1
  eeDoDeselected := false
  cardKind := .sd
  autoKind := .sd
  cardPresent := true
  writeProtected := false
  triggerMode := .writeTrigger
  imgLen := 4096
  respCmd8 := ⟨[], [], [0x01#8, 0xAA#8]⟩
  respCmd9 := ⟨[], [], []⟩
  respCmd10 := ⟨[], [], []⟩
  respAcmd41 := ⟨[], [], []⟩
  respCmd55 := ⟨[], [], []⟩
  respCmd58 := ⟨[], [], []⟩
  trailerRt := #v[0xA1#8, 0xA2#8, 0xA3#8]
  trailerWt := #v[0xB1#8, 0xB2#8]

/-- A chip of four sectors of four bytes, for the snapshot. -/
def tiny : Variant :=
  { Variant.v29F040 with
    size := 16, sectorSize := 4, sectorMask := 12, sectorShift := 2, m1Addr := 5, m1Mask := 7,
    m2Addr := 2, m2Mask := 7 }

/-- The reference instance at power-on. -/
def m : State where
  cfg := ref
  clk := 0
  flash := FlashChip.powerOn []
  eeprom := SerialEeprom.powerOn []
  card := SpiCard.powerOn
  image := []
  ioFail := []
  inputs := []
  outputs := []

/-- The FlashChip in a sequencer state. -/
def fl (q : FlashState) : State := { m with flash := { m.flash with seq := q } }

/-- The FlashChip in a state with a queue, a timer and a clock value. -/
def er (q : FlashState) (pending : BitVec 64) (timer : Option Nat) (clk : Nat) : State :=
  { m with clk := clk, flash := { m.flash with seq := q, pending := pending, eraseTimer := timer } }

/-- The EEPROM right after a command boundary, with the latch as given. -/
def ee (wel : Bool) : State :=
  { m with eeprom := { m.eeprom with cs := true, wel := wel, cells := [(0, 0x12#8), (1, 0x34#8)] } }

/-- The EEPROM selected, in a command. -/
def eeIn (c : EeCommand) (n : Nat) : State :=
  { m with eeprom := { m.eeprom with cs := true, command := c, inCnt := n } }

/-- The card in a state, four-byte blocks. -/
def sd (q : CardState) : State :=
  { m with card := { m.card with state := q, blockSize := 4#32 } }

/-- The card in a phase of a block write at offset 0x20. -/
def wr (q : CardState) (p : WritePhase) (buf : List Byte) : State :=
  { m with card := { m.card with
      state := q, blockSize := 4#32, imageCursor := 0x20#64, writePhase := p, writeBuffer := buf } }

/-- What an outcome shows, if it goes on. -/
def got {α : Type} (r : Result) (f : State → α) : Option α :=
  match r with
  | .next t => some (f t)
  | .fault _ => none
  | .refused _ => none

/-- The reason of an outcome that does not go on. -/
def why (r : Result) : Option Refusal :=
  match r with
  | .next _ => none
  | .fault _ => none
  | .refused x => some x

/-- One step with one operation pending. -/
def one (op : Op) (s : State) : Result := step { s with inputs := [op] }

/-- The last value returned. -/
def last (s : State) : Option Reply := s.outputs.getLast?

/-! ## Well-formedness -/

/-- 00_scope.md R12 holds of the variants with at most 64 sectors. -/
theorem wf_variants :
    [Variant.v29F040, .v29F040B, .v29F010, .v29F032BSwap, tiny].all Variant.wf = true := by decide

/-- 128 sectors (91_not_in_source.md N6). -/
theorem wf_refuses_spansion064 : Variant.spansion064.wf = false := by decide

/-- One ill-formed variant for each clause of 00_scope.md R12. -/
theorem wf_refuses_each_clause :
    [{ tiny with sectorShift := 3 }, { tiny with size := 15 }, { tiny with sectorMask := 8 },
      { tiny with size := 12, sectorMask := 8 }, { tiny with size := 0, sectorMask := 0 },
      { tiny with m1Addr := 13 }, { tiny with m2Addr := 10 },
      { tiny with m2Addr := 5 }].any Variant.wf = false := by decide

/-- Durations below one tick (00_scope.md R11). -/
theorem wf_refuses_durations :
    [{ ref with tSectorTimeout := 0 }, { ref with tSectorErase := 0 },
      { ref with tChipErase := 0 }].any Config.wf = false := by decide

theorem wf_refuses_address : Instr.wf Variant.v29F040 (.flPeek 0x80000) = false := by decide

theorem wf_admits_last_address : Instr.wf Variant.v29F040 (.flPeek 0x7FFFF) = true := by decide

/-- One ill-formed term for each row with an address or data test. -/
theorem wf_refuses_row_tests :
    [Instr.flUnlockA 0x5554, .flIgnoreRead 0x5555 0xAA#8, .flUnlockB 0x2AAB,
      .flAbortUnlock1 0x2AAA 0x55#8, .flAutoselect 0x2AAA, .flResetLong 0, .flProgramSetup 0,
      .flEraseSetup 0, .flAbortUnlock2 0x5555 0xA0#8, .flEraseUnlockA 0,
      .flAbortEraseunlock1 0x5555 0xAA#8, .flEraseUnlockB 0, .flAbortEraseunlock2 0x2AAA 0x55#8,
      .flChipErase 0, .flAbortEraseselect 0 0x30#8, .flAbortEraseselect 0x5555 0x10#8,
      .flEraseCancel 0 0x30#8, .flReunlock 0, .flIgnoreErrorAutoselect 0x5555 0xAA#8,
      .flIgnoreErrorAutoselect 0 0xF0#8, .sdUnknown 0x51#8 0#32, .sdUnknown 0xFF#8 0#32].any
      (Instr.wf Variant.v29F040) = false := by decide

/-- Construction refuses an ill-formed configuration and a wrong-sized image. -/
theorem construct_refuses :
    why (State.construct { ref with tChipErase := 0 } [] [] []) = some .configurationRefused
    ∧ why (State.construct { ref with variant := tiny } [] [] []) = some .imageWrongSize := by decide

/-! ## Decoding, from the units of 30_encoding.md R111, R114, R116, R117, R120, R122 -/

/-- The context of a state. -/
def dec (s : State) (op : Op) : Option Instr := (decode s.ctx op).toOption

theorem decode_unlock_rows :
    [dec (fl .read) (.flWrite 0xD555 0xAA#8 false), dec (fl .read) (.flWrite 0x5555 0xAB#8 false),
      dec (fl .unlock1) (.flWrite 0x7AAAA 0x55#8 false), dec (fl .unlock1) (.flWrite 0x5555 0xAA#8 false),
      dec (fl .unlock2) (.flWrite 0x5555 0x90#8 false), dec (fl .unlock2) (.flWrite 0x5555 0xF0#8 false),
      dec (fl .unlock2) (.flWrite 0x5555 0xA0#8 false), dec (fl .unlock2) (.flWrite 0x5555 0x80#8 false),
      dec (fl .unlock2) (.flWrite 0x5554 0x90#8 false)] =
    [some (.flUnlockA 0xD555), some (.flIgnoreRead 0x5555 0xAB#8), some (.flUnlockB 0x7AAAA),
      some (.flAbortUnlock1 0x5555 0xAA#8), some (.flAutoselect 0x5555), some (.flResetLong 0x5555),
      some (.flProgramSetup 0x5555), some (.flEraseSetup 0x5555),
      some (.flAbortUnlock2 0x5554 0x90#8)] := by decide

theorem decode_erase_rows :
    [dec (fl .byteProgram) (.flWrite 0x5555 0xAA#8 false),
      dec (fl .eraseUnlock1) (.flWrite 0x5555 0xAA#8 false),
      dec (fl .eraseUnlock1) (.flWrite 0x5555 0xA0#8 false),
      dec (fl .eraseUnlock2) (.flWrite 0x2AAA 0x55#8 false),
      dec (fl .eraseUnlock2) (.flWrite 0x2AAA 0xAA#8 false),
      dec (fl .eraseSelect) (.flWrite 0x5555 0x10#8 false),
      dec (fl .eraseSelect) (.flWrite 0x5555 0x30#8 false),
      dec (fl .eraseSelect) (.flWrite 0 0x10#8 false),
      dec (fl .sectorEraseTimeout) (.flWrite 0x0FFFF 0x30#8 false),
      dec (fl .sectorEraseTimeout) (.flWrite 0 0xB0#8 false),
      dec (fl .sectorErase) (.flWrite 0 0xB0#8 false),
      dec (fl .sectorEraseSuspend) (.flWrite 0 0x30#8 false),
      dec (fl .sectorErase) (.flWrite 0x10000 0x30#8 false),
      dec (fl .chipErase) (.flWrite 0 0xF0#8 false)] =
    [some (.flProgramData 0x5555 0xAA#8), some (.flEraseUnlockA 0x5555),
      some (.flAbortEraseunlock1 0x5555 0xA0#8), some (.flEraseUnlockB 0x2AAA),
      some (.flAbortEraseunlock2 0x2AAA 0xAA#8), some (.flChipErase 0x5555),
      some (.flSectorErase 0x5555), some (.flAbortEraseselect 0 0x10#8), some (.flSectorAdd 0x0FFFF),
      some (.flEraseCancel 0 0xB0#8), some (.flEraseSuspend 0), some (.flEraseResume 0),
      some (.flIgnoreSectorerase 0x10000 0x30#8), some (.flIgnoreChiperase 0 0xF0#8)] := by decide

theorem decode_other_flash_rows :
    [dec (fl .autoselect) (.flWrite 0x5555 0xAA#8 false),
      dec (fl .autoselect) (.flWrite 0x1234 0xF0#8 false),
      dec (fl .byteProgramError) (.flWrite 0 0x00#8 false), dec (fl .read) (.flWrite 0x300 0x0F#8 true),
      dec (fl .unlock2) (.flRead 0x4000), dec (fl .autoselect) (.flRead 1),
      dec (fl .byteProgramError) (.flRead 0), dec (fl .chipErase) (.flRead 0), dec m (.flPeek 0x4000),
      dec m .flReset, dec m .flTick, dec (fl .sectorEraseTimeout) .flExpire,
      dec (fl .sectorErase) .flExpire, dec (fl .chipErase) .flExpire, dec m .flSave,
      dec m (.flLoad 1 [0x0D#8])] =
    [some (.flReunlock 0x5555), some (.flResetShort 0x1234), some (.flIgnoreErrorAutoselect 0 0x00#8),
      some (.flRmw 0x300 0x0F#8), some (.flReadArray 0x4000), some (.flReadId 1),
      some (.flReadPstatus 0), some (.flReadEstatus 0), some (.flPeek 0x4000), some .flHwReset,
      some .flTick, some .flExpireTimeout, some .flExpireSector, some .flExpireChip,
      some .flSnapshotSave, some (.flSnapshotLoad 1 [0x0D#8])] := by decide

/-- The bits of a frame, the first one first. -/
def b (bits : List Nat) : Op := .eeFrame (bits.map (· == 1))

theorem decode_eeprom_frames :
    [dec m (b [1, 1, 0, 1, 0, 0, 0, 0, 0, 0, 0, 1, 1]),
      dec m (b [1, 0, 1, 0, 0, 0, 0, 0, 0, 0, 0, 0, 1,
        1, 0, 1, 1, 1, 1, 1, 0, 1, 1, 1, 0, 1, 1, 1, 1]),
      dec m (b [1, 1, 1, 0, 0, 0, 0, 0, 0, 0, 1, 0, 0]),
      dec m (b [1, 0, 0, 0, 0, 1, 0, 0, 0, 0, 0, 0, 0]),
      dec m (b [1, 0, 0, 0, 1, 0, 0, 0, 0, 0, 0, 0, 1,
        1, 1, 0, 0, 0, 0, 0, 0, 0, 0, 0, 0, 1, 1, 1, 1]),
      dec m (b [1, 0, 0, 1, 0, 1, 1, 1, 1, 1, 1, 1, 1]),
      dec m (b [1, 0, 0, 1, 1, 0, 0, 0, 0, 0, 0, 1, 0]), dec m (b [0]), dec m (b [1, 1, 0])] =
    [some (.eeRead 0x203#10), some (.eeWrite 1#10 0xBEEF#16), some (.eeErase 4#10),
      some (.eeWds 0x80#8), some (.eeWral 1#8 0xC00F#16), some (.eeEral 0xFF#8), some (.eeWen 2#8),
      some .eeZeroStart, none] := by decide

theorem decode_eeprom_lines :
    [dec m (.eeSelect true), dec (ee false) (.eeSelect false), dec m (.eeSelect false),
      dec (ee false) (.eeClock true), dec (ee false) (.eeClock false), dec m (.eeData true),
      dec m .eeReadData, dec (eeIn .readAddrLatched 13) (.eeClock true),
      dec (eeIn .readStreaming 13) (.eeClock true), dec m .eeReset] =
    [some .eeCsRise, some .eeCsFall, none, some (.eeClk true), some (.eeClk false), some (.eeDi true),
      some .eeDo, some .eeDummyEdge, some .eeStreamEdge, some .eeReset] := by decide

/-- The bytes of a frame. -/
def f (bytes : List Nat) : Op := .sdFrame (bytes.map (BitVec.ofNat 8))

theorem decode_card_frames :
    [dec m (f [0xFF, 0x40, 0, 0, 0, 0]), dec m (f [0xFF, 0x41, 0, 0, 0, 1]),
      dec m (f [0xFF, 0x48, 0, 0, 0x01, 0xAA, 0x87, 0xFF, 0xFE]),
      dec m (f [0xFF, 0x49, 0, 0, 0, 0, 1, 2, 3]), dec m (f [0xFF, 0x4A, 0, 0, 0, 0, 1, 2, 3]),
      dec m (f [0xFF, 0x4C, 0, 0, 0, 0]), dec m (f [0xFF, 0x50, 0, 0, 2, 0, 0xFF, 0xFF, 0xFF]),
      dec m (f [0xFF, 0x51, 0x12, 0x34, 0x56, 0x78]), dec m (f [0xFF, 0x58, 0, 0, 0, 0x20]),
      dec m (f [0xFF, 0x69, 0, 0, 0, 0]), dec m (f [0xFF, 0x77, 0, 0, 0, 0]),
      dec m (f [0xFF, 0x7A, 0, 0, 0, 0]), dec m (f [0xFF, 0x42, 0, 0, 0, 0]),
      dec m (f [0xFF, 0x48, 0, 0, 0, 0])] =
    [some (.sdCmd0 0#32), some (.sdCmd1 1#32), some (.sdCmd8 0x1AA#32 0x87#8 0xFFFE#16),
      some (.sdCmd9 0#32 1#8 0x0203#16), some (.sdCmd10 0#32 1#8 0x0203#16), some (.sdCmd12 0#32),
      some (.sdCmd16 0x200#32 0xFF#8 0xFFFF#16), some (.sdCmd17 0x12345678#32),
      some (.sdCmd24 0x20#32), some (.sdAcmd41 0#32), some (.sdCmd55 0#32), some (.sdCmd58 0#32),
      some (.sdUnknown 0x42#8 0#32), none] := by decide

theorem decode_card_bytes :
    [dec (wr .write .waitToken []) (.sdWrite 0xFE#8), dec (wr .write .waitToken []) (.sdWrite 0xFF#8),
      dec (wr .write (.data 2) []) (.sdWrite 0xFE#8), dec (wr .dummyWrite (.crc 1) []) (.sdWrite 0x34#8),
      dec (sd .returnWrite) .sdRead, dec (sd (.reset 5)) .sdRead, dec (sd .init) .sdRead,
      dec (sd .dummyRead) .sdRead, dec (sd .idle) .sdRead, dec m .sdReset,
      dec (sd .idle) (.sdWrite 0xFF#8)] =
    [some .sdWtoken, none, some (.sdWdata 0xFE#8), some (.sdWcrc 0x34#8), some .sdRxReturnwrite,
      some .sdRxReset, some .sdRxInit, some .sdRxStream, some .sdRxIdle, some .sdReset, none] := by
  decide

/-- The table's numbers: data byte, EEPROM frame, card frame in either byte order (log 14). -/
theorem decode_table_words :
    [decodeTableWord 8 0xAA, decodeTableWord 8 0xA0, decodeTableWord 16 0x1800,
      decodeTableWord 32 0x14000000, decodeTableWord 48 0x51FF, decodeTableWord 48 0xFF5100000000,
      decodeTableWord 72 0x50FF, decodeTableWord 8 0xFE] =
    [some (.flUnlockA 0x5555), some (.flProgramSetup 0x5555), some (.eeRead 0#10),
      some (.eeWrite 0#10 0#16), some (.sdCmd17 0#32), some (.sdCmd17 0#32),
      some (.sdCmd16 0#32 0#8 0#16), some .sdWtoken] := by decide

/-- A unit placed for the next step is executed by it. -/
theorem fetch_word_runs :
    got (step (State.reset.withFetchWord 48 0x40FF)) (fun t => (t.card.state, t.inputs)) =
      some (.reset 0, [])
    ∧ got (step (State.reset.withFetchWord 8 0x90)) (·.flash.baseState) = some .autoselect := by decide

/-! ## FlashChip steps -/

/-- V2, V5, V7, V9, V10, V11. -/
theorem step_unlocks :
    got (one (.flWrite 0xD555 0xAA#8 false) m) (·.flash.seq) = some .unlock1
    ∧ got (one (.flWrite 0x7AAAA 0x55#8 false) (fl .unlock1)) (·.flash.seq) = some .unlock2
    ∧ got (one (.flWrite 0x5555 0xAA#8 false) (fl .unlock1)) (·.flash.seq) = some .read
    ∧ got (one (.flWrite 0x5554 0x90#8 false) (fl .unlock2)) (·.flash.seq) = some .read
    ∧ got (one (.flWrite 0x5555 0x90#8 false) (fl .unlock2)) (·.flash.baseState) = some .autoselect
    ∧ got (exec (.flResetLong 0x5555)
        { m with flash := { m.flash with seq := .unlock2, baseState := .autoselect } })
        (·.flash.baseState) = some .read := by decide

/-- V15, V17, V19, V20. -/
theorem step_programs :
    got (exec (.flProgramData 0x10 0xFF#8)
        { m with flash := { m.flash with seq := .byteProgram, data := [(0x10, 0x5A#8)] } })
        (fun t => (t.flash.seq, t.flash.data, t.flash.dirty)) =
      some (.byteProgramError, [(0x10, 0x5A#8)], true)
    ∧ got (exec (.flProgramData 0x10 0x3C#8)
        { m with flash := { m.flash with seq := .byteProgram, data := [(0x10, 0xF0#8)] } })
        (fun t => (t.flash.seq, t.flash.data, t.flash.programByte)) =
      some (.byteProgramError, [(0x10, 0x30#8)], 0x3C#8)
    ∧ got (one (.flWrite 0x5555 0xAA#8 false) (fl .byteProgram))
        (fun t => (t.flash.seq, t.flash.data)) = some (.read, [(0x5555, 0xAA#8)])
    ∧ got (exec (.flProgramData 0x10 0x0F#8)
        { m with flash := { m.flash with seq := .byteProgram, baseState := .autoselect } })
        (·.flash.seq) = some .autoselect := by decide

/-- V26, V27, V28, V29, V30. -/
theorem step_erase_commands :
    got (exec (.flChipErase 0x5555) { fl .eraseSelect with clk := 100 })
        (fun t => (t.flash.seq, t.flash.eraseTimer)) = some (.chipErase, some 120)
    ∧ got (one (.flWrite 0 0x10#8 false) (fl .eraseSelect))
        (fun t => (t.flash.seq, t.flash.eraseTimer)) = some (.read, none)
    ∧ got (exec (.flSectorErase 0x7FFFF) (fl .eraseSelect))
        (fun t => (t.flash.seq, t.flash.pending, t.flash.eraseTimer)) =
      some (.sectorEraseTimeout, 0x80#64, some 4)
    ∧ got (exec (.flSectorAdd 0x0FFFF) (er .sectorEraseTimeout 0x80#64 (some 4) 2))
        (fun t => (t.flash.pending, t.flash.eraseTimer)) = some (0x81#64, some 4)
    ∧ got (one (.flWrite 0 0xB0#8 false) (er .sectorEraseTimeout 0x08#64 (some 4) 0))
        (fun t => (t.flash.seq, t.flash.pending, t.flash.eraseTimer)) = some (.read, 0#64, none) := by
  decide

/-- V32, V33, V34, V36, V37, V38, V39. -/
theorem step_during_operations :
    got (exec (.flEraseSuspend 0) (er .sectorErase 0x28#64 (some 14) 7))
        (fun t => (t.flash.seq, t.flash.pending, t.flash.eraseTimer)) =
      some (.sectorEraseSuspend, 0x28#64, none)
    ∧ got (one (.flWrite 0x10000 0x30#8 false) (er .sectorErase 0x28#64 (some 14) 7)) id =
      some (er .sectorErase 0x28#64 (some 14) 7)
    ∧ got (exec (.flEraseResume 0) (er .sectorEraseSuspend 0x28#64 none 107))
        (fun t => (t.flash.seq, t.flash.eraseTimer)) = some (.sectorErase, some 117)
    ∧ got (one (.flWrite 0 0xB0#8 false) (fl .chipErase)) id = some (fl .chipErase)
    ∧ got (exec (.flAbortUnlock1 0 0x00#8)
        { m with flash := { m.flash with seq := .unlock1, baseState := .autoselect } })
        (·.flash.seq) = some .autoselect
    ∧ got (exec (.flResetShort 0x1234) (fl .autoselect)) (·.flash.seq) = some .read
    ∧ got (one (.flWrite 0 0x00#8 false) (fl .byteProgramError)) id = some (fl .byteProgramError) := by
  decide

/-- V41, V42: the glitch store of `last_read` comes first. -/
theorem step_rmw :
    got (exec (.flRmw 0x5555 0x55#8) { m with flash := { m.flash with lastRead := 0xAA#8 } })
        (·.flash.seq) = some .read
    ∧ got (exec (.flRmw 0x300 0x0F#8)
        { m with flash := { m.flash with
            seq := .byteProgram, data := [(0x300, 0xF0#8)], lastRead := 0xF0#8 } })
        (fun t => (t.flash.seq, t.flash.programByte, t.flash.data)) =
      some (.read, 0xF0#8, [(0x300, 0xF0#8)]) := by decide

/-- V43, V44. -/
theorem step_array_reads :
    got (exec (.flReadArray 0x4000)
        { m with flash := { m.flash with seq := .unlock2, data := [(0x4000, 0x3C#8)] } })
        (fun t => (last t, t.flash.seq, t.flash.lastRead)) =
      some (some (.byte 0x3C#8), .unlock2, 0x3C#8)
    ∧ got (exec (.flPeek 0x4000)
        { m with flash := { m.flash with seq := .chipErase, data := [(0x4000, 0x3C#8)] } })
        (fun t => (last t, t.flash.lastRead)) = some (some (.byte 0x3C#8), 0x00#8) := by decide

/-- V45. -/
theorem step_autoselect_reads :
    [0, 1, 2, 3, 0x100, 0x7FF02].map (fun a =>
      got (exec (.flReadId a)
        { m with flash := { m.flash with seq := .autoselect, data := [(3, 0x44#8)] } }) last) =
    [some (some (.byte 0x01#8)), some (some (.byte 0xA4#8)), some (some (.byte 0x00#8)),
      some (some (.byte 0x44#8)), some (some (.byte 0x01#8)), some (some (.byte 0x00#8))] := by decide

/-- V46: address 1 is tested as 2 and address 2 as 1. -/
theorem step_autoselect_swapped :
    [0, 1, 2, 3].map (fun a =>
      got (exec (.flReadId a)
        { m with
          cfg := { ref with variant := { Variant.v29F040 with a01Swap := true } }
          flash := { m.flash with seq := .autoselect, data := [(1, 0x77#8), (2, 0x88#8)] } }) last) =
    [some (some (.byte 0x01#8)), some (some (.byte 0x00#8)), some (some (.byte 0xA4#8)),
      some (some (.byte 0xFF#8))] := by decide

/-- V47: DQ7 inverted, DQ6 from the clock, DQ5 set. -/
theorem step_program_status :
    [0, 1].map (fun clk =>
      got (exec (.flReadPstatus 0)
        { m with
          clk := clk, flash := { m.flash with seq := .byteProgramError, programByte := 0xA5#8 } }) last) =
    [some (some (.byte 0x20#8)), some (some (.byte 0x60#8))] := by decide

/-- V49, V50, V51. -/
theorem step_erase_status :
    [(FlashState.sectorEraseTimeout, 0x00#8), (.chipErase, 0x00#8), (.sectorEraseSuspend, 0x40#8)].map
      (fun p => got (exec (.flReadEstatus 0)
        { m with flash := { m.flash with seq := p.1, programByte := p.2 } })
        (fun t => (last t, t.flash.programByte))) =
    [some (some (.byte 0x00#8), 0x40#8), some (some (.byte 0x08#8), 0x40#8),
      some (some (.byte 0x48#8), 0x00#8)] := by decide

/-- An address the chip does not have (20_memory.md R84). -/
theorem step_refuses_address :
    why (one (.flRead 0x80000) m) = some (.flashAddressOutOfRange 0x80000) := by decide

/-- P4 steps 6, 7, 16 and 17: the short timeout, then the lowest sector filled. -/
theorem step_expiries :
    got (exec .flTick (er .sectorEraseTimeout 0x28#64 (some 4) 2))
        (fun t => (t.flash.seq, t.clk)) = some (.sectorEraseTimeout, 3)
    ∧ got (exec .flTick (er .sectorEraseTimeout 0x28#64 (some 4) 3))
        (fun t => (t.flash.seq, t.flash.eraseTimer)) = some (.sectorErase, some 14)
    ∧ got (exec .flTick
        { er .sectorErase 0x28#64 (some 117) 116 with
          flash := { (er .sectorErase 0x28#64 (some 117) 116).flash with
            data := [(0x2FFFF, 0#8), (0x30000, 0#8), (0x3FFFF, 0#8), (0x40000, 0#8)] } })
        (fun t => (t.flash.pending, t.flash.eraseTimer, t.flash.data)) =
      some (0x20#64, some 127, [(0x2FFFF, 0#8), (0x40000, 0#8)]) := by decide

/-- S7: a chip erase ends at its expiry; offered before its time it does nothing. -/
theorem step_chip_expiry :
    got (exec .flExpireChip
        { er .chipErase 0#64 (some 20) 20 with
          flash := { (er .chipErase 0#64 (some 20) 20).flash with data := [(0, 0#8)] } })
        (fun t => (t.flash.seq, t.flash.dirty, t.flash.data)) = some (.read, true, [])
    ∧ got (exec .flExpireChip (er .chipErase 0#64 (some 20) 19)) id =
      some (er .chipErase 0#64 (some 20) 19)
    ∧ got (exec .flExpireSector (er .sectorErase 0x20#64 (some 20) 20)) (·.flash.seq) = some .read
    ∧ got (exec .flExpireTimeout (er .sectorEraseTimeout 0x20#64 (some 20) 20)) (·.flash.seq) =
      some .sectorErase := by decide

/-- V93. -/
theorem step_reset :
    got (exec .flHwReset
        { m with flash := { m.flash with
            seq := .autoselect, baseState := .autoselect, programByte := 0x5A#8, dirty := true
            lastRead := 0xA4#8 } })
        (fun t => (t.flash.seq, t.flash.baseState, t.flash.programByte, t.flash.dirty, t.flash.lastRead)) =
      some (.read, .read, 0x00#8, true, 0xA4#8) := by decide

/-- A chip of sixteen bytes in the state of V96. -/
def snap : State :=
  { m with
    cfg := { ref with variant := tiny }
    clk := 1000
    flash := { m.flash with
      data := [(2, 0x11#8)], seq := .sectorErase, programByte := 0x40#8, pending := 0x28#64
      lastRead := 0x08#8 } }

/-- The bytes of V96 before `data`. -/
def snapHead : List Byte :=
  [0x0A#8, 0x00#8, 0x40#8, 0x28#8, 0x00#8, 0x00#8, 0x00#8, 0x00#8, 0x00#8, 0x00#8, 0x00#8, 0x08#8]

/-- V96, V97. -/
theorem step_snapshot :
    got (exec .flSnapshotSave snap) last =
      some (some (.snapshot (snapHead ++ [0xFF#8, 0xFF#8, 0x11#8] ++ List.replicate 13 0xFF#8)))
    ∧ got (exec (.flSnapshotLoad 1 (snapHead ++ List.replicate 16 0xFF#8)) snap)
        (fun t => (t.flash.dirty, t.flash.eraseTimer, t.flash.data, last t)) =
      some (true, some 1010, [], some (.loaded true)) := by decide

/-- V98: another major version, a short image, a state code of 0x0D. -/
theorem step_snapshot_rejected :
    [exec (.flSnapshotLoad 2 (snapHead ++ List.replicate 16 0xFF#8)) snap,
      exec (.flSnapshotLoad 1 (snapHead ++ List.replicate 15 0xFF#8)) snap,
      exec (.flSnapshotLoad 1 (0x0D#8 :: snapHead.tail ++ List.replicate 16 0xFF#8)) snap].map (got · id) =
    List.replicate 3 (some { snap with outputs := [.loaded false] }) := by decide

/-! ## SerialEEPROM steps -/

/-- P5 step 2 and V72: WEN and WDS. -/
theorem step_enables :
    got (exec (.eeWen 0#8) (ee false)) (fun t => (t.eeprom.wel, t.eeprom.command, t.eeprom.inCnt)) =
      some (true, .none, 0)
    ∧ got (exec (.eeWds 0#8) (ee true)) (fun t => (t.eeprom.wel, t.eeprom.command)) =
      some (false, .none) := by decide

/-- P5 step 4 and the second half of S5. -/
theorem step_write :
    got (exec (.eeWrite 1#10 0xBEEF#16) (ee true)) (fun t => (t.eeprom.cells, t.eeprom.command)) =
      some ([(0, 0x12#8), (1, 0x34#8), (2, 0xBE#8), (3, 0xEF#8)], .busy)
    ∧ got (exec (.eeWrite 1#10 0xBEEF#16) (ee false)) (fun t => (t.eeprom.cells, t.eeprom.command)) =
      some ([(0, 0x12#8), (1, 0x34#8)], .none) := by decide +kernel

/-- 43_eeprom.md R243, R237: ERASE shows `Busy`, ERAL does not. -/
theorem step_erases :
    got (exec (.eeErase 0#10) (ee true)) (fun t => (t.eeprom.cells, t.eeprom.command)) =
      some ([], .busy)
    ∧ got (exec (.eeEral 0xFF#8) (ee true)) (fun t => (t.eeprom.cells, t.eeprom.command)) =
      some ([], .none) := by decide +kernel

/-- 43_eeprom.md R242 with R244: WRAL without the latch changes nothing. -/
theorem step_wral_rejected :
    got (exec (.eeWral 0#8 0x1234#16) (ee false)) (fun t => (t.eeprom.cells, t.eeprom.command)) =
      some ([(0, 0x12#8), (1, 0x34#8)], .none) := by decide +kernel

/-- S5: READ 0, the dummy edge and the first edges of the stream. -/
theorem step_read :
    got (exec (.eeRead 0#10) (ee false)) (fun t => (t.eeprom.command, t.eeprom.addr, t.eeprom.inCnt)) =
      some (.readAddrLatched, 0#10, 13)
    ∧ got (exec .eeDummyEdge
        { ee false with eeprom := { (ee false).eeprom with command := .readAddrLatched } })
        (fun t => (t.eeprom.command, t.eeprom.outSr, t.eeprom.dout)) =
      some (.readStreaming, 0x1234#16, false)
    ∧ got (exec .eeStreamEdge
        { ee false with eeprom := { (ee false).eeprom with
            command := .readStreaming, outSr := 0x8000#16, outCnt := 15, addr := 1023#10 } })
        (fun t => (t.eeprom.dout, t.eeprom.addr, t.eeprom.outSr, t.eeprom.outCnt)) =
      some (true, 0#10, 0x1234#16, 0) := by decide

/-- V73, P5 steps 6 and 7, V74. -/
theorem step_selects :
    got (exec .eeCsFall { eeIn .readStreaming 13 with
          eeprom := { (eeIn .readStreaming 13).eeprom with outCnt := 5, dout := true } })
        (fun t => (t.eeprom.command, t.eeprom.inCnt, t.eeprom.outCnt, t.eeprom.dout)) =
      some (.none, 0, 0, false)
    ∧ got (exec .eeCsFall (eeIn .busy 0)) (·.eeprom.command) = some .ready
    ∧ got (exec .eeCsRise { m with eeprom := { m.eeprom with command := .ready, inCnt := 3 } })
        (fun t => (t.eeprom.cs, t.eeprom.inCnt, t.eeprom.command)) = some (true, 0, .ready)
    ∧ got (one (.eeSelect false) m) id = some m := by decide

/-- 43_eeprom.md R247 and R221, R226, R229. -/
theorem step_lines :
    [eeIn .busy 0, eeIn .ready 0, m].map (fun s => got (exec .eeDo s) last) =
      [some (some (.bit false)), some (some (.bit true)), some (some (.bit false))]
    ∧ got (exec (.eeDi true) m) (·.eeprom.di) = some true
    ∧ got (exec (.eeClk true) (ee false)) (fun t => (t.eeprom.ck, t.eeprom.inCnt)) = some (true, 0)
    ∧ got (exec .eeZeroStart (ee false)) (·.eeprom.inCnt) = some 0 := by decide

/-- V94. -/
theorem step_eeprom_reset :
    got (exec .eeReset { ee true with
          eeprom := { (ee true).eeprom with command := .readStreaming, inCnt := 13, addr := 7#10 } })
        (fun t => (t.eeprom.command, t.eeprom.inCnt, t.eeprom.addr, t.eeprom.wel, t.eeprom.cs)) =
      some (.none, 0, 0#10, true, true) := by decide

/-! ## SpiMmcCard steps -/

/-- V81, V82, V88, V89, V91: the commands that move the card's own state. -/
theorem step_card_states :
    got (exec (.sdCmd0 0#32) (wr .idle .waitToken [0x01#8])) (fun t => t.card) =
      some { SpiCard.powerOn with state := .reset 0 }
    ∧ got (exec (.sdCmd1 0#32) (sd .idle)) (·.card.state) = some .init
    ∧ got (exec (.sdUnknown 0x42#8 0#32) (sd .read)) (fun t => (t.card.state, t.card.cmdIdx)) =
      some (.idle, 0)
    ∧ got (exec (.sdCmd12 0#32) (sd .read)) (·.card.state) = some .idle
    ∧ got (one (f [0xFF, 0xFF, 0x50, 0xFF, 0xFF, 0xFF, 0xFF, 0, 0, 0]) m) (·.card.blockSize) =
      some 0xFFFFFFFF#32 := by decide

/-- V92: the canned responses; the dispatch of the next command discards what is unread. -/
theorem step_card_responses :
    got (exec (.sdCmd8 0x1AA#32 0#8 0#16) { m with cfg := { ref with cardKind := .sdhc } })
        (·.card.resp) = some [0x01#8, 0xAA#8]
    ∧ [Instr.sdCmd9 0#32 0#8 0#16, .sdCmd10 0#32 0#8 0#16, .sdAcmd41 0#32, .sdCmd55 0#32, .sdCmd58 0#32].map
        (fun i => got (exec i { m with card := { m.card with resp := [0xC0#8] } }) (·.card.resp)) =
      List.replicate 5 (some []) := by decide

/-- V80: a register read without a card. -/
theorem step_card_absent :
    got (exec (.sdCmd9 0#32 0#8 0#16) { sd .idle with cfg := { ref with cardPresent := false } })
      (fun t => (t.card.state, t.card.readBuffer)) = some (.dummyRead, List.replicate 4 0x00#8) := by decide

/-- V62, V78: the address of a block under two kinds, and a block that leaves the image. -/
theorem step_card_read :
    got (exec (.sdCmd17 2#32) { sd .idle with cfg := { ref with cardKind := .sdhc } })
        (fun t => (t.card.imageCursor, t.card.state)) = some (0x400#64, .read)
    ∧ got (exec (.sdCmd17 2#32) { sd .idle with image := [(3, 0x18#8)] })
        (fun t => (t.card.imageCursor, t.card.readBuffer)) =
      some (2#64, [0xFF#8, 0x18#8, 0xFF#8, 0xFF#8])
    ∧ got (exec (.sdCmd17 0xFFD#32) (sd .idle)) (·.card.state) = some .dummyRead := by decide

/-- V83, V79. -/
theorem step_card_write_command :
    got (exec (.sdCmd24 0x20#32) (sd .idle)) (fun t => (t.card.state, t.card.imageCursor)) =
      some (.write, 0x20#64)
    ∧ got (exec (.sdCmd24 0#32) { sd .idle with cfg := { ref with cardPresent := false } })
        (·.card.state) = some .dummyWrite := by decide

/-- R274, R294, V76: a seek to the end of the image succeeds, one beyond it fails, for CMD24; CMD17 reads no
byte there (log 28). -/
theorem test_seek_to_the_end :
    [0xFFF#32, 0x1000#32, 0x1001#32].map (fun a => got (exec (.sdCmd24 a) (sd .idle)) (·.card.state)) =
      [some .write, some .write, some .dummyWrite]
    ∧ got (exec (.sdCmd17 0x1000#32) (sd .idle)) (·.card.state) = some .dummyRead
    ∧ got (exec (.sdCmd17 0x1000#32) { m with card := { m.card with blockSize := 0#32 } })
        (·.card.state) = some .read := by decide

/-- R386, R309: a block written exactly at the end of the image changes no byte of it. -/
theorem test_write_at_the_end :
    got (exec (.sdWdata 0x01#8)
        { wr .write (.data 3) [0xDE#8, 0xAD#8, 0xFE#8] with cfg := { ref with imgLen := 0x20 } })
      (fun t => (t.card.writePhase, t.image)) = some (.crc 0, []) := by decide

/-- R274, R309: a write that the image fails is ignored and changes no byte. -/
theorem step_card_write_fails :
    got (exec (.sdWdata 0x01#8)
        { wr .write (.data 3) [0xDE#8, 0xAD#8, 0xFE#8] with ioFail := [true, false] })
      (fun t => (t.card.writePhase, t.image, t.ioFail)) = some (.crc 0, [], [false]) := by decide

/-- V83: the token, the last data byte and the commit. -/
theorem step_card_block :
    got (exec .sdWtoken (wr .write .waitToken [])) (·.card.writePhase) = some (.data 0)
    ∧ got (exec (.sdWdata 0xFE#8) (wr .write (.data 2) [0xDE#8, 0xAD#8]))
        (fun t => (t.card.writePhase, t.image)) = some (.data 3, [])
    ∧ got (exec (.sdWdata 0x01#8) (wr .write (.data 3) [0xDE#8, 0xAD#8, 0xFE#8]))
        (fun t => (t.card.writePhase, t.image)) =
      some (.crc 0, [(0x20, 0xDE#8), (0x21, 0xAD#8), (0x22, 0xFE#8), (0x23, 0x01#8)])
    ∧ got (exec (.sdWdata 0x01#8) (wr .dummyWrite (.data 3) [0xDE#8, 0xAD#8, 0xFE#8]))
        (fun t => (t.card.writePhase, t.image)) = some (.crc 0, []) := by decide

/-- V84. -/
theorem step_card_crc :
    got (exec (.sdWcrc 0x12#8) (wr .write (.crc 0) [])) (·.card.writePhase) = some (.crc 1)
    ∧ got (exec (.sdWcrc 0x34#8) (wr .write (.crc 1) [])) (·.card.state) = some .returnWrite
    ∧ got (exec .sdRxReturnwrite (sd .returnWrite)) (fun t => (last t, t.card.state)) =
      some (some (.byte 0xFF#8), .idle) := by decide

/-- S8, V82, S6. -/
theorem step_card_reads :
    got (exec .sdRxReset (sd (.reset 2))) (fun t => (last t, t.card.state)) =
      some (some (.byte 0x01#8), .reset 3)
    ∧ got (exec .sdRxReset (sd (.reset 5))) (fun t => (last t, t.card.state)) =
      some (some (.byte 0x01#8), .idle)
    ∧ got (exec .sdRxInit (sd .init)) (fun t => (last t, t.card.state)) =
      some (some (.byte 0x00#8), .idle)
    ∧ got (exec .sdRxIdle { m with card := { m.card with resp := [0x05#8, 0x06#8] } })
        (fun t => (last t, t.card.resp)) = some (some (.byte 0x05#8), [0x06#8]) := by decide

/-- A read stream of four bytes. -/
def stream (t : TriggerMode) (p : Nat) : State :=
  { m with
    cfg := { ref with triggerMode := t }
    card := { m.card with
      state := .read, blockSize := 4#32, readBuffer := [0x73#8, 0x7A#8, 0x81#8, 0x88#8], readPos := p } }

/-- V75 and S6: the preambles, the block and the trailers; the position stops at the last byte. -/
theorem step_card_stream :
    [0, 1, 2, 3, 6, 7, 9].map (fun p => got (exec .sdRxStream (stream .readTrigger p)) last) =
      [some (some (.byte 0xFF#8)), some (some (.byte 0xFE#8)), some (some (.byte 0xFE#8)),
        some (some (.byte 0x73#8)), some (some (.byte 0x88#8)), some (some (.byte 0xA1#8)),
        some (some (.byte 0xA3#8))]
    ∧ [0, 1, 2, 7].map (fun p => got (exec .sdRxStream (stream .writeTrigger p))
        (fun t => (last t, t.card.readPos))) =
      [some (some (.byte 0xFF#8), 1), some (some (.byte 0xFE#8), 2), some (some (.byte 0x73#8), 3),
        some (some (.byte 0xB2#8), 7)] := by decide

/-- V95. -/
theorem step_card_reset :
    got (exec .sdReset (wr .write (.data 2) [0xDE#8])) (·.card) = some SpiCard.powerOn := by decide

/-! ## Witnesses: states and operands that meet the hypotheses of the statements, clause by clause -/

/-- UnlockCycles. -/
theorem witness_unlockCycles :
    (0x7D555 < m.cfg.variant.size ∧ m.flash.seq = .read ∧ isM1 m.cfg.variant 0x7D555 = true)
    ∧ (0x7AAAA < ref.variant.size ∧ (fl .unlock1).flash.seq = .unlock1
      ∧ isM2 ref.variant 0x7AAAA = true)
    ∧ (0x5555 < ref.variant.size ∧ (fl .byteProgramError).flash.seq = .byteProgramError
      ∧ (fl .autoselect).flash.seq = .autoselect ∧ isM1 ref.variant 0x5555 = true) := by decide

/-- CommandSetUpCycles. -/
theorem witness_commandSetUpCycles :
    (0x5555 < ref.variant.size ∧ 0x2AAA < ref.variant.size
      ∧ isM1 ref.variant 0x5555 = true ∧ isM2 ref.variant 0x2AAA = true)
    ∧ (fl .unlock2).flash.seq = .unlock2 ∧ (fl .eraseUnlock1).flash.seq = .eraseUnlock1
    ∧ (fl .eraseUnlock2).flash.seq = .eraseUnlock2 := by decide

/-- RestingPointCommands. -/
theorem witness_restingPointCommands :
    (0x7D555 < ref.variant.size ∧ (fl .unlock2).flash.seq = .unlock2
      ∧ isM1 ref.variant 0x7D555 = true)
    ∧ (0x7FFFF < ref.variant.size ∧ (fl .byteProgramError).flash.seq = .byteProgramError) := by decide

/-- SequenceAborts. -/
theorem witness_sequenceAborts :
    ((fl .unlock1).flash.seq = .unlock1 ∧ 0x2AAA < ref.variant.size
      ∧ ¬(isM2 ref.variant 0x2AAA = true ∧ 0x54#8 = 0x55#8))
    ∧ ((fl .eraseUnlock1).flash.seq = .eraseUnlock1
      ∧ ¬(isM1 ref.variant 0x5554 = true ∧ 0xAA#8 = 0xAA#8))
    ∧ ((fl .eraseUnlock2).flash.seq = .eraseUnlock2
      ∧ ¬(isM2 ref.variant 0x2AAA = true ∧ 0xAA#8 = 0x55#8))
    ∧ ((fl .eraseSelect).flash.seq = .eraseSelect ∧ 0x10#8 ≠ 0x30#8
      ∧ ¬(isM1 ref.variant 0x0000 = true ∧ 0x10#8 = 0x10#8)) := by decide

/-- UntakenCycles. -/
theorem witness_untakenCycles :
    ((fl .unlock2).flash.seq = .unlock2 ∧ 0x5554 < ref.variant.size ∧ isM1 ref.variant 0x5554 = false
      ∧ (0x42#8 ≠ 0x90#8 ∧ 0x42#8 ≠ 0xF0#8 ∧ 0x42#8 ≠ 0xA0#8 ∧ 0x42#8 ≠ 0x80#8))
    ∧ (m.flash.seq = .read ∧ ¬(isM1 ref.variant 0x5555 = true ∧ 0xAB#8 = 0xAA#8))
    ∧ ((fl .sectorErase).flash.seq = .sectorErase ∧ 0x30#8 ≠ 0xB0#8
      ∧ (fl .sectorEraseSuspend).flash.seq = .sectorEraseSuspend ∧ 0xB0#8 ≠ 0x30#8)
    ∧ (fl .chipErase).flash.seq = .chipErase
    ∧ ((fl .autoselect).flash.seq = .autoselect ∧ ¬(isM1 ref.variant 0x5554 = true ∧ 0xAA#8 = 0xAA#8)
      ∧ 0xAA#8 ≠ 0xF0#8) := by decide

/-- ProgramDataCycle. -/
theorem witness_programDataCycle :
    (fl .byteProgram).flash.data.wf = true ∧ 0x7FFFF < ref.variant.size
    ∧ (fl .byteProgram).flash.seq = .byteProgram := by decide

/-- OnlyErasureSetsBits. -/
theorem witness_onlyErasureSetsBits :
    (fl .byteProgram).flash.data.wf = true
    ∧ (∃ t, exec (.flProgramData 0x7FFFF 0x3C#8) (fl .byteProgram) = .next t)
    ∧ encode (.flProgramData 0x7FFFF 0x3C#8) ≠ .flTick
    ∧ encode (.flProgramData 0x7FFFF 0x3C#8) ≠ .flExpire
    ∧ ∀ major bytes, encode (.flProgramData 0x7FFFF 0x3C#8) ≠ .flLoad major bytes :=
  ⟨by decide, ⟨_, rfl⟩, by decide, by decide, nofun⟩

/-- WhereTheArrayChanges. -/
theorem witness_whereTheArrayChanges :
    (fl .byteProgram).flash.baseState = .read
    ∧ ∃ t, exec (.flProgramData 0x7FFFF 0x3C#8) (fl .byteProgram) = .next t
      ∧ t.flash.data ≠ (fl .byteProgram).flash.data :=
  ⟨rfl, _, rfl, by decide⟩

/-- EraseCommands. -/
theorem witness_eraseCommands :
    0x7FFFF < ref.variant.size ∧ 0x5555 < ref.variant.size
    ∧ (fl .eraseSelect).flash.seq = .eraseSelect ∧ isM1 ref.variant 0x5555 = true := by decide

/-- EraseQueueCommands. -/
theorem witness_eraseQueueCommands :
    0x7FFFF < ref.variant.size ∧ (fl .sectorEraseTimeout).flash.seq = .sectorEraseTimeout
    ∧ 0xB0#8 ≠ 0x30#8 ∧ (fl .sectorEraseSuspend).flash.seq = .sectorEraseSuspend := by decide

/-- EraseSuspend. -/
theorem witness_eraseSuspend :
    0x7FFFF < ref.variant.size ∧ (fl .sectorErase).flash.seq = .sectorErase := by decide

/-- ReadModifyWriteCycle. -/
theorem witness_readModifyWriteCycle :
    0x7FFFF < ref.variant.size ∧ (fl .byteProgram).flash.data.wf = true
    ∧ (fl .byteProgram).flash.seq = .byteProgram ∧ (fl .byteProgram).flash.baseState = .read := by decide

/-- ReadCycles. -/
theorem witness_readCycles :
    (0x7FFFF < ref.variant.size ∧ (fl .eraseSelect).flash.seq ∈
      [FlashState.read, .unlock1, .unlock2, .byteProgram, .eraseUnlock1, .eraseUnlock2, .eraseSelect])
    ∧ (encode (.flReadEstatus 0x7FFFF) = .flRead 0x7FFFF
      ∧ ∃ t, exec (.flReadEstatus 0x7FFFF) (fl .read) = .next t)
    ∧ inErase (fl .read).flash.seq = false :=
  ⟨by decide, ⟨rfl, _, rfl⟩, rfl⟩

/-- AutoselectRead: without the swap for the four values of the low byte, and with it. -/
theorem witness_autoselectRead :
    (0x7FF03 < ref.variant.size ∧ (fl .autoselect).flash.seq = .autoselect
      ∧ ref.variant.a01Swap = false
      ∧ 0x7FF00 % 256 = 0
      ∧ (0x7FF01 % 256 ≠ 0 ∧ 0x7FF01 % 256 = ref.variant.deviceIdAddr.toNat)
      ∧ (0x7FF02 % 256 = 2 ∧ 0x7FF02 % 256 ≠ ref.variant.deviceIdAddr.toNat)
      ∧ (0x7FF03 % 256 ≠ 0 ∧ 0x7FF03 % 256 ≠ 2
        ∧ 0x7FF03 % 256 ≠ ref.variant.deviceIdAddr.toNat))
    ∧ (Variant.v29F032BSwap.a01Swap = true ∧ 1 < Variant.v29F032BSwap.size
      ∧ 2 / 4 = 1 / 4 ∧ 2 % 4 = (Variant.v29F032BSwap.swap[1 % 4]'(by decide)).toNat) := by decide

/-- StatusReads. -/
theorem witness_statusReads :
    0x7FFFF < ref.variant.size ∧ (fl .byteProgramError).flash.seq = .byteProgramError
    ∧ ∀ q ∈ [FlashState.chipErase, .sectorErase, .sectorEraseTimeout, .sectorEraseSuspend],
      (fl q).flash.seq ∈ [FlashState.chipErase, .sectorErase, .sectorEraseTimeout, .sectorEraseSuspend] := by
  decide

/-- AliasRead, CompletesInsideThePrecondition: the last address and the first one beyond. -/
theorem witness_addresses :
    0x7FFFF < m.cfg.variant.size ∧ Instr.addrInRange m.cfg.variant (.flPeek 0x7FFFF) = true
    ∧ Instr.flashAddr (.flPeek 0x80000) = some 0x80000 ∧ m.cfg.variant.size ≤ 0x80000 := by decide

/-- TickAndShortTimeout. -/
theorem witness_tickAndShortTimeout :
    m.flash.eraseTimer ≠ some (m.clk + 1)
    ∧ ((er .sectorEraseTimeout 1#64 (some 4) 3).flash.seq = .sectorEraseTimeout
      ∧ (er .sectorEraseTimeout 1#64 (some 4) 3).flash.eraseTimer =
        some ((er .sectorEraseTimeout 1#64 (some 4) 3).clk + 1))
    ∧ ((er .sectorEraseTimeout 1#64 (some 4) 4).flash.seq = .sectorEraseTimeout
      ∧ (er .sectorEraseTimeout 1#64 (some 4) 4).flash.eraseTimer = some 4
      ∧ 4 ≤ (er .sectorEraseTimeout 1#64 (some 4) 4).clk) := by decide

/-- SectorExpiry, with the highest sector of the chip the only one queued. -/
theorem witness_sectorExpiry :
    (er .sectorErase 0x80#64 (some 14) 13).flash.data.wf = true
    ∧ (er .sectorErase 0x80#64 (some 14) 13).flash.seq = .sectorErase
    ∧ 7 < 64 ∧ (0x80#64).getLsbD 7 = true ∧ (∀ j < 7, (0x80#64).getLsbD j = false)
    ∧ 7 <<< ref.variant.sectorShift < ref.variant.size
    ∧ (er .sectorErase 0x80#64 (some 14) 13).flash.eraseTimer =
      some ((er .sectorErase 0x80#64 (some 14) 13).clk + 1)
    ∧ (er .sectorErase 0x80#64 (some 14) 14).flash.eraseTimer = some 14
    ∧ 14 ≤ (er .sectorErase 0x80#64 (some 14) 14).clk := by decide

/-- ChipExpiry. -/
theorem witness_chipExpiry :
    (er .chipErase 0#64 (some 20) 19).flash.data.wf = true
    ∧ (er .chipErase 0#64 (some 20) 19).flash.seq = .chipErase
    ∧ (er .chipErase 0#64 (some 20) 19).flash.eraseTimer =
      some ((er .chipErase 0#64 (some 20) 19).clk + 1)
    ∧ (er .chipErase 0#64 (some 20) 20).flash.eraseTimer = some 20
    ∧ 20 ≤ (er .chipErase 0#64 (some 20) 20).clk := by decide

/-- OddExpiries: a timer in an untimed state, an empty queue, the first sector beyond the chip, a timer
one tick ahead. -/
theorem witness_oddExpiries :
    (timed (er .read 0#64 (some 5) 4).flash.seq = false
      ∧ (er .read 0#64 (some 5) 4).flash.eraseTimer = some ((er .read 0#64 (some 5) 4).clk + 1))
    ∧ ((er .sectorErase 0#64 (some 5) 5).flash.seq = .sectorErase
      ∧ (er .sectorErase 0#64 (some 5) 5).flash.pending = 0#64
      ∧ (er .sectorErase 0#64 (some 5) 5).flash.eraseTimer = some 5
      ∧ 5 ≤ (er .sectorErase 0#64 (some 5) 5).clk)
    ∧ ((er .sectorErase 0x100#64 (some 5) 5).flash.eraseTimer = some 5
      ∧ 8 < 64 ∧ (0x100#64).getLsbD 8 = true ∧ (∀ j < 8, (0x100#64).getLsbD j = false)
      ∧ ref.variant.size ≤ 8 <<< ref.variant.sectorShift)
    ∧ Instr.flExpireSector ∈ [Instr.flExpireTimeout, .flExpireSector, .flExpireChip] := by decide

/-- OddExpiries, the last clause: the timer lies ahead. -/
theorem witness_oddExpiries_ahead :
    ∀ t, (er .sectorErase 1#64 (some 5) 4).flash.eraseTimer = some t →
      (er .sectorErase 1#64 (some 5) 4).clk < t := by
  intro t h
  cases h
  decide

/-- ChipEraseEnds, with one tick left. -/
theorem witness_chipEraseEnds :
    let s : State := { er .chipErase 0#64 (some 20) 19 with inputs := [.flTick, .flRead 0] }
    s.flash.seq = .chipErase ∧ s.flash.eraseTimer = some (s.clk + (0 + 1))
    ∧ s.inputs = List.replicate (0 + 1) .flTick ++ [.flRead 0] := by decide

/-- SectorEraseEnds, with two sectors queued, the chip's first and its last. -/
theorem witness_sectorEraseEnds :
    let s : State :=
      { er .sectorEraseTimeout 0x81#64 (some 4) 0 with inputs := List.replicate 24 .flTick }
    s.FlashInv ∧ s.flash.seq = .sectorEraseTimeout
    ∧ s.flash.eraseTimer = some (s.clk + s.cfg.tSectorTimeout)
    ∧ 2 = (List.range 64).countP (fun i => s.flash.pending.getLsbD i)
    ∧ s.inputs = List.replicate (s.cfg.tSectorTimeout + 2 * s.cfg.tSectorErase) .flTick ++ [] := by
  decide

/-- SnapshotSaveAndRejection: each reason of rejection alone. -/
theorem witness_snapshotRejection :
    2 ≠ snap.cfg.snapshotMajor
    ∧ (snapHead ++ List.replicate 15 0xFF#8).length ≠ 12 + snap.cfg.variant.size
    ∧ 12 < ((0x0D#8 :: snapHead.tail).getD 0 0#8).toNat
    ∧ 12 < ((0x00#8 :: 0x0D#8 :: snapHead.tail.tail).getD 1 0#8).toNat := by decide

/-- SnapshotRoundTrip. -/
theorem witness_snapshotRoundTrip :
    { snap with clk := 7 }.cfg = snap.cfg ∧ snap.flash.data.wf = true
    ∧ snap.flash.data.below snap.cfg.variant.size = true := by decide

/-- EepromSelectAndOutput. -/
theorem witness_eepromSelect :
    m.eeprom.cs = false ∧ (eeIn .readStreaming 13).eeprom.cs = true
    ∧ reading (eeIn .readStreaming 13).eeprom.command = true
    ∧ (eeIn .busy 0).eeprom.command = .busy
    ∧ ((eeIn .write 20).eeprom.cs = true ∧ reading (eeIn .write 20).eeprom.command = false
      ∧ (eeIn .write 20).eeprom.command ≠ .busy) := by decide

/-- EepromClock, the clauses away from the thirteenth and twenty-ninth bits: no edge, a boundary, the first
bit, the third, the fifth, and between the thresholds at both ends of a frame. -/
theorem witness_eepromClock :
    ¬(m.eeprom.cs = true ∧ m.eeprom.ck = false ∧ true = true)
    ∧ (ee false).eeprom.AtBoundary
    ∧ (∀ p ∈ [(EeCommand.none, 1), (.busy, 0), (.write, 27), (.none, 2), (.read, 4), (.none, 4)],
      (eeIn p.1 p.2).eeprom.cs = true ∧ (eeIn p.1 p.2).eeprom.ck = false
      ∧ reading (eeIn p.1 p.2).eeprom.command = false)
    ∧ (eeIn .none 1).eeprom.inCnt ∉ [0, 2, 4, 12, 28] ∧ (eeIn .write 27).eeprom.inCnt ∉ [0, 2, 4, 12, 28]
    ∧ (eeIn .busy 0).eeprom.inCnt = 0 ∧ (eeIn .none 2).eeprom.inCnt = 2
    ∧ (eeIn .read 4).eeprom.inCnt = 4 := by decide

/-- The EEPROM selected, in a command, with the latch set. -/
def eeSet (c : EeCommand) (n : Nat) : State :=
  { eeIn c n with eeprom := { (eeIn c n).eeprom with wel := true } }

/-- EepromClock at the thirteenth and at the twenty-ninth bit, for each command, without and with the
latch. -/
theorem witness_eepromClock_last :
    (∀ c ∈ [EeCommand.read, .writeEnable, .writeDisable, .eraseAll, .erase, .write, .writeAll],
      ∀ n ∈ [12, 28], ∀ s ∈ [eeIn c n, eeSet c n],
        s.eeprom.cs = true ∧ s.eeprom.ck = false ∧ reading s.eeprom.command = false
        ∧ s.eeprom.inCnt = n ∧ s.eeprom.command = c ∧ s.eeprom.cells.wf = true)
    ∧ EeCommand.write ∉ [EeCommand.read, .writeEnable, .writeDisable, .eraseAll, .erase]
    ∧ EeCommand.read ∉ [EeCommand.write, .writeAll]
    ∧ (eeIn .erase 12).eeprom.wel = false ∧ (eeSet .erase 12).eeprom.wel = true := by decide

/-- EepromReadEdges, at both sides of the sixteenth bit. -/
theorem witness_eepromReadEdges :
    ((eeIn .readAddrLatched 13).eeprom.cs = true ∧ (eeIn .readAddrLatched 13).eeprom.ck = false
      ∧ (eeIn .readAddrLatched 13).eeprom.command = .readAddrLatched)
    ∧ (∀ n ∈ [14, 15],
      let e := { (eeIn .readStreaming 13).eeprom with outCnt := n }
      e.cs = true ∧ e.ck = false ∧ e.command = .readStreaming ∧ (e.outCnt < 15 ∨ e.outCnt = 15)) := by
  decide

/-- EepromReadFrame, EepromEnableFrames, EepromWordFrames, EepromWholeArrayFrames,
EepromRejectedFrames. -/
theorem witness_eepromFrames :
    ((ee true).eeprom.AtBoundary ∧ (ee true).eeprom.wel = true ∧ (ee true).eeprom.cells.wf = true)
    ∧ ((ee false).eeprom.AtBoundary ∧ (ee false).eeprom.wel = false) := by decide

/-- EepromWriteGate: an edge that changes a cell, and one that changes the latch. -/
theorem witness_eepromWriteGate :
    (∀ bits, Op.eeClock true ≠ .eeFrame bits)
    ∧ (∃ t, perform (.eeClock true)
        { eeIn .write 28 with eeprom := { (eeIn .write 28).eeprom with wel := true } } = .next t
      ∧ t.eeprom.cells ≠ (eeIn .write 28).eeprom.cells)
    ∧ ∃ t, perform (.eeClock true) (eeIn .writeEnable 12) = .next t
      ∧ t.eeprom.wel ≠ (eeIn .writeEnable 12).eeprom.wel :=
  ⟨nofun, ⟨_, rfl, by decide⟩, ⟨_, rfl, by decide⟩⟩

/-- The card with some bytes of a frame buffered. -/
def framing (n : Nat) (cmdByte : Byte) : State :=
  { m with card := { m.card with cmdIdx := n, cmdBuf := m.card.cmdBuf.set 1 cmdByte } }

/-- CardFramer: the four clauses, the last at the ends of its ranges. -/
theorem witness_cardFramer :
    (m.card.state ≠ .write ∧ m.card.state ≠ .dummyWrite)
    ∧ (m.card.cmdIdx = 0 ∧ 0x51#8 ≠ 0xFF#8)
    ∧ (framing 1 0#8).card.cmdIdx = 1
    ∧ ((framing 1 0#8).card.cmdIdx = (1 : Fin 9).val ∧ 0x51#8 ≠ 0xFF#8)
    ∧ ((framing 4 0x51#8).card.cmdIdx = (4 : Fin 9).val ∧ (4 : Fin 9).val < 5)
    ∧ ((framing 7 0x50#8).card.cmdIdx = (7 : Fin 9).val ∧ (7 : Fin 9).val < 8
      ∧ (framing 7 0x50#8).card.cmdBuf[1] = 0x50#8) := by decide

/-- CardStateCommands, CardCannedResponses: a card that listens, with and without a medium. -/
theorem witness_cardCommands :
    (∀ q ∈ [CardState.idle, .reset 5, .init, .read, .dummyRead, .returnWrite], (sd q).card.Listening)
    ∧ (0x42#8 ∉ knownCommands ∧ 0x42#8 ≠ 0xFF#8)
    ∧ m.cfg.cardPresent = true ∧ { ref with cardPresent := false }.cardPresent = false := by decide

/-- The card idle, with answers listed for the calls of its image. -/
def io (l : List Bool) : State := { sd .idle with ioFail := l }

/-- CardReadBlock: the last block inside the image and the first outside, with success listed and unlisted;
no card; a seek that fails by the list or beyond the end; a read that fails by the list or at the end. -/
theorem witness_cardReadBlock :
    (∀ l ∈ [[], [true], [false, true], [false, false]], (io l).card.Listening
      ∧ (io l).cfg.cardPresent = true)
    ∧ 0xFFC = (if effectiveKind (sd .idle).cfg = .sdhc then (0xFFC#32).toNat * 512 else (0xFFC#32).toNat)
    ∧ (∀ l ∈ [[], [false, false]], (io l).ioFail.getD 0 false = false ∧ (io l).ioFail.getD 1 false = false
      ∧ 0xFFC + (io l).card.blockSize.toNat ≤ (io l).cfg.imgLen)
    ∧ { ref with cardPresent := false }.cardPresent = false
    ∧ ((io [true]).ioFail.getD 0 false = true ∧ (io []).cfg.imgLen < 0x1001)
    ∧ ((io [false, true]).ioFail.getD 0 false = false ∧ 0x1000 ≤ (io []).cfg.imgLen
      ∧ (io [false, true]).ioFail.getD 1 false = true
      ∧ (io []).cfg.imgLen < 0xFFD + (io []).card.blockSize.toNat) := by decide

/-- CardWriteCommand, at the last offset a seek reaches and the first beyond, with a listed failure, and
without a card. -/
theorem witness_cardWriteCommand :
    (∀ l ∈ [[], [false], [true]], (io l).card.Listening ∧ (io l).cfg.cardPresent = true)
    ∧ 0x1000 =
      (if effectiveKind { ref with cardKind := .sdhc } = .sdhc then (8#32).toNat * 512
        else (8#32).toNat)
    ∧ (0x1000 ≤ (io []).cfg.imgLen ∧ (io []).cfg.imgLen < 0x1001)
    ∧ (io [false]).ioFail.getD 0 false = false ∧ (io [true]).ioFail.getD 0 false = true
    ∧ { ref with cardPresent := false }.cardPresent = false := by decide

/-- CardBlockBytes: the token, a byte inside a block, and the last one where the write succeeds, where it
fails by the list or leaves the image, in `DummyWrite`, and without a card. -/
theorem witness_cardBlockBytes :
    let w := wr .write (.data 3) [1#8, 2#8, 3#8]
    ((wr .write .waitToken []).card.state = .write
      ∧ (wr .dummyWrite .waitToken []).card.writePhase = .waitToken)
    ∧ ((wr .write (.data 0) []).card.writePhase = .data 0 ∧ 0 ≤ ([] : List Byte).length
      ∧ 0 + 1 ≠ (wr .write (.data 0) []).card.blockSize.toNat)
    ∧ (w.card.state = .write ∧ w.card.writePhase = .data 3 ∧ 3 ≤ w.card.writeBuffer.length
      ∧ w.image.wf = true ∧ 3 + 1 = w.card.blockSize.toNat ∧ w.cfg.cardPresent = true
      ∧ w.ioFail.getD 0 false = false ∧ (io [false]).ioFail.getD 0 false = false
      ∧ w.card.imageCursor.toNat + (3 + 1) ≤ w.cfg.imgLen)
    ∧ ((io [true]).ioFail.getD 0 false = true
      ∧ { ref with imgLen := 0x23 }.imgLen < w.card.imageCursor.toNat + (3 + 1))
    ∧ (wr .dummyWrite (.data 3) [1#8, 2#8, 3#8]).card.state = .dummyWrite
    ∧ { ref with cardPresent := false }.cardPresent = false := by decide

/-- CardCrcAndReturn, CardStatusReads. -/
theorem witness_cardReads :
    ((wr .write (.crc 0) []).card.state = .write ∧ (wr .write (.crc 0) []).card.writePhase = .crc 0)
    ∧ ((wr .dummyWrite (.crc 1) []).card.state = .dummyWrite
      ∧ (wr .dummyWrite (.crc 1) []).card.writePhase = .crc 1)
    ∧ (sd .returnWrite).card.state = .returnWrite ∧ (sd (.reset 5)).card.state = .reset 5
    ∧ (sd .init).card.state = .init ∧ (sd .dummyWrite).card.state = .dummyWrite := by decide

/-- CardStreamRead, at the first and the last position, in both trigger modes. -/
theorem witness_cardStreamRead :
    (stream .readTrigger 9).card.state = .read
    ∧ (stream .readTrigger 9).card.readBuffer.length = (stream .readTrigger 9).card.blockSize.toNat
    ∧ (stream .readTrigger 9).card.readPos <
      3 + (stream .readTrigger 9).card.blockSize.toNat + ref.trailerRt.toList.length
    ∧ (stream .writeTrigger 7).card.readPos <
      2 + (stream .writeTrigger 7).card.blockSize.toNat + ref.trailerWt.toList.length := by decide

/-- CardImageGate. -/
theorem witness_cardImageGate :
    (∀ bytes, Op.sdWrite 0x01#8 ≠ .sdFrame bytes)
    ∧ ∃ t, perform (.sdWrite 0x01#8) (wr .write (.data 3) [1#8, 2#8, 3#8]) = .next t
      ∧ t.image ≠ (wr .write (.data 3) [1#8, 2#8, 3#8]).image :=
  ⟨nofun, _, rfl, by decide⟩

/-- StepRunsTheDecodedInstruction, StepPerformsTheOperation, DecodeIsSound: no operation, one of a row,
one of no row. -/
theorem witness_step :
    m.inputs = []
    ∧ ({ m with inputs := [.flRead 0x7FFFF, .flTick] }.inputs = .flRead 0x7FFFF :: [.flTick]
      ∧ decode m.ctx (.flRead 0x7FFFF) = .ok (.flReadArray 0x7FFFF))
    ∧ decode m.ctx (.eeFrame []) = .error .raggedBits :=
  ⟨rfl, ⟨rfl, rfl⟩, rfl⟩

/-- DecodeInvertsEncode: one instruction of each engine, an operand at the end of its range. -/
theorem witness_decodeInvertsEncode :
    (Instr.wf ref.variant (.flAbortUnlock2 0x7FFFF 0xFF#8) = true
      ∧ Instr.selectedIn (fl .unlock2).ctx (.flAbortUnlock2 0x7FFFF 0xFF#8) = true)
    ∧ (Instr.wf ref.variant (.eeWrite 1023#10 0xFFFF#16) = true
      ∧ Instr.selectedIn m.ctx (.eeWrite 1023#10 0xFFFF#16) = true)
    ∧ (Instr.wf ref.variant (.sdUnknown 0xFE#8 0xFFFFFFFF#32) = true
      ∧ Instr.selectedIn m.ctx (.sdUnknown 0xFE#8 0xFFFFFFFF#32) = true) := by decide

/-- The four invariants hold of a state from which a step goes on; none of the pending operations is a
snapshot load. -/
theorem witness_invariants :
    let s : State := { er .sectorErase 0x80#64 (some 14) 13 with inputs := [.flTick] }
    (s.ArraysCanonical ∧ s.FlashInv ∧ s.eeprom.Inv ∧ s.card.Inv s.cfg)
    ∧ (∀ major bytes, s.inputs.head? ≠ some (.flLoad major bytes))
    ∧ ∃ t, step s = .next t :=
  ⟨by decide, (fun _ _ h => by cases h), _, rfl⟩

/-- EnginesShareNothing: one operation of each engine. -/
theorem witness_enginesShareNothing :
    (∃ t, perform (.flRead 0x7FFFF) m = .next t) ∧ (∃ t, perform (.eeClock true) m = .next t)
    ∧ ∃ t, perform (.sdWrite 0xFF#8) m = .next t :=
  ⟨⟨_, rfl⟩, ⟨_, rfl⟩, ⟨_, rfl⟩⟩

/-- Construction: an ill-formed configuration, a wrong size, and the sizes of a small chip. -/
theorem witness_construction :
    { ref with tChipErase := 0 }.wf = false
    ∧ ({ ref with variant := tiny }.wf = true ∧ ([] : List Byte).length ≠ tiny.size)
    ∧ ((List.replicate 16 0xFF#8).length = tiny.size ∧ (List.replicate 2048 0xFF#8).length = 2048) :=
  ⟨by decide, by decide, rfl, List.length_replicate⟩

/-- VariantGeometry, at the last address. -/
theorem witness_variantGeometry : Variant.v29F040.wf = true ∧ 0x7FFFF < Variant.v29F040.size := by decide

end Sys2Proof.Tests
end

/-! The scope of the model (spec/00_scope.md): the geometry of a well-formed variant, the power-on state
with its four invariants, and the separation of the three engines. -/

namespace Sys2Proof.Proofs

open Laws.UnitOfEngine (port)
open Machine Laws

/-! ## Well-formed variants and configurations -/

/-- 00_scope.md R12, with `n` the number of sectors: a power of two up to 64 (log 27). -/
theorem variant_wf_geometry {v : Variant} (h : v.wf = true) :
    ∃ k, 2 ^ k ≤ 64 ∧ v.sectorSize = 2 ^ v.sectorShift
      ∧ v.size = 2 ^ k * 2 ^ v.sectorShift
      ∧ v.sectorMask = (2 ^ k - 1) * 2 ^ v.sectorShift := by
  simp only [Variant.wf, Bool.and_eq_true, beq_iff_eq, decide_eq_true_eq] at h
  obtain ⟨⟨⟨⟨⟨⟨⟨⟨hsector, hsize⟩, hmask⟩, hpow⟩, hcount⟩, hpos⟩, -⟩, -⟩, -⟩ := h
  have hne : v.size / v.sectorSize ≠ 0 := by
    intro hzero
    rw [hzero, Nat.zero_mul] at hsize
    omega
  obtain ⟨k, hk⟩ := (Nat.and_sub_one_eq_zero_iff_isPowerOfTwo hne).mp hpow
  rw [Nat.one_shiftLeft] at hsector
  rw [hk] at hcount
  rw [hk, hsector] at hsize
  refine ⟨k, hcount, hsector, hsize, ?_⟩
  rw [hmask, hsize, hsector, Nat.sub_mul, Nat.one_mul]

/-- The magic addresses of a well-formed variant differ in a bit that both masks keep. -/
theorem variant_wf_magic {v : Variant} (h : v.wf = true) :
    (v.m1Addr ^^^ v.m2Addr) &&& (v.m1Mask &&& v.m2Mask) ≠ 0 := by
  simp only [Variant.wf, Bool.and_eq_true, bne_iff_ne] at h
  exact h.2

/-- Two maskings of one number agree in the bits that both masks keep. -/
theorem xor_and_masks_eq_zero (a p q : Nat) : ((a &&& p) ^^^ (a &&& q)) &&& (p &&& q) = 0 := by
  apply Nat.eq_of_testBit_eq
  intro i
  have hbit : ∀ x y z : Bool, (((x && y) ^^ (x && z)) && (y && z)) = false := by decide
  simp only [Nat.testBit_and, Nat.testBit_xor, Nat.zero_testBit]
  exact hbit _ _ _

/-- No address matches both magic pairs of a well-formed variant. -/
theorem not_isM1_and_isM2 {v : Variant} (h : v.wf = true) (a : Nat) :
    ¬(isM1 v a = true ∧ isM2 v a = true) := by
  rintro ⟨h1, h2⟩
  rw [isM1, beq_iff_eq] at h1
  rw [isM2, beq_iff_eq] at h2
  apply variant_wf_magic h
  rw [← h1, ← h2]
  exact xor_and_masks_eq_zero a v.m1Mask v.m2Mask

/-- In a well-formed variant the masking and shifting of 00_scope.md R17 is division by the sector size. -/
theorem sectorOf_eq_div {v : Variant} (h : v.wf = true) {a : Nat} (ha : a < v.size) :
    sectorOf v a = a / v.sectorSize := by
  obtain ⟨k, -, hsector, hsize, hmask⟩ := variant_wf_geometry h
  have hlt : a / 2 ^ v.sectorShift < 2 ^ k := Nat.div_lt_of_lt_mul (by rwa [Nat.mul_comm, ← hsize])
  calc sectorOf v a
      = (a / 2 ^ v.sectorShift) &&& (2 ^ k - 1) := by
        rw [sectorOf, hmask, Nat.shiftRight_and_distrib, Nat.shiftRight_eq_div_pow,
          Nat.shiftRight_eq_div_pow, Nat.mul_div_cancel _ (Nat.two_pow_pos _)]
    _ = a / 2 ^ v.sectorShift := by
        rw [Nat.and_two_pow_sub_one_eq_mod, Nat.mod_eq_of_lt hlt]
    _ = a / v.sectorSize := by rw [hsector]

/-- A chip of a well-formed variant has at most 64 sectors. -/
theorem div_sectorSize_lt {v : Variant} (h : v.wf = true) {a : Nat} (ha : a < v.size) :
    a / v.sectorSize < 64 := by
  obtain ⟨k, hcount, hsector, hsize, -⟩ := variant_wf_geometry h
  have hlt : a / v.sectorSize < 2 ^ k :=
    Nat.div_lt_of_lt_mul (by rwa [hsector, Nat.mul_comm, ← hsize])
  omega

theorem sectorSize_pos {v : Variant} (h : v.wf = true) : 0 < v.sectorSize := by
  obtain ⟨-, -, hsector, -⟩ := variant_wf_geometry h
  rw [hsector]
  exact Nat.two_pow_pos _

/-- Settles O60: the magic pairs differ under both masks, and the sector number is a quotient. -/
theorem variantGeometry : Obligations.VariantGeometry := by
  intro v a h
  refine ⟨not_isM1_and_isM2 h a, fun ha => ?_⟩
  rw [sectorOf_eq_div h ha]
  refine ⟨div_sectorSize_lt h ha, Nat.div_mul_le_self a v.sectorSize, ?_⟩
  rw [Nat.mul_comm]
  exact Nat.lt_mul_div_succ a (sectorSize_pos h)

/-! ## The power-on state -/

/-- A FlashChip at power-on meets its invariant under any configuration that can be constructed: no timer
runs and no sector is queued. -/
theorem flashInv_of_powerOn {s : State} {array : Memory} (hcfg : s.cfg.wf = true)
    (hflash : s.flash = FlashChip.powerOn array) : s.FlashInv := by
  rw [State.FlashInv, hflash]
  refine ⟨hcfg, .inl rfl, fun _ => rfl, nofun, rfl, rfl, ⟨fun _ => rfl, fun _ => rfl⟩, ?_⟩
  intro i _ hqueued
  simp [FlashChip.powerOn] at hqueued

theorem eepromInv_powerOn (cells : Memory) : (SerialEeprom.powerOn cells).Inv :=
  ⟨rfl, fun _ => rfl, nofun, Nat.zero_lt_succ 15⟩

theorem cardInv_powerOn (cfg : Config) : SpiCard.powerOn.Inv cfg := by
  refine ⟨Nat.zero_le 8, ?_, ?_, ?_, ?_, ?_, rfl⟩
  · exact fun h => absurd h (by decide)
  · exact fun h => absurd h (by decide)
  · exact fun h => absurd rfl h
  · rintro (h | h) <;> cases h
  · exact fun h => absurd rfl h

/-- The array of an image is canonical and lists no address beyond the image. -/
theorem ofBytes_canonical {bytes : List Byte} {size : Nat} (h : bytes.length = size) :
    (Memory.ofBytes 0 bytes).wf = true ∧ (Memory.ofBytes 0 bytes).below size = true :=
  ⟨ofBytes_wf 0 bytes, h ▸ ofBytes_below bytes⟩

/-- The array of an image reads as the image. -/
theorem read_ofBytes_zero {bytes : List Byte} {x : Nat} (h : x < bytes.length) :
    (Memory.ofBytes 0 bytes).read x = bytes.getD x 0#8 := by
  rw [read_ofBytes, if_pos ⟨Nat.zero_le x, by omega⟩, Nat.sub_zero]

/-- The free durations of the configuration at reset are at least one tick (00_scope.md R11). -/
theorem atReset_wf : Config.atReset.wf = true := by
  have hvariant : Variant.v29F040.wf = true := by decide
  simp only [Config.wf, Bool.and_eq_true, decide_eq_true_eq]
  exact ⟨⟨⟨hvariant, Nat.le_add_left 1 _⟩, Nat.le_add_left 1 _⟩, Nat.le_add_left 1 _⟩

/-- Settles O57: the state at reset is the power-on state of the three engines over blank images. -/
theorem invariantsAtReset : Obligations.InvariantsAtReset :=
  ⟨⟨⟨rfl, rfl⟩, ⟨rfl, rfl⟩, ⟨rfl, rfl⟩⟩, flashInv_of_powerOn atReset_wf rfl,
    eepromInv_powerOn [], cardInv_powerOn Config.atReset⟩

/-! ## Construction -/

theorem construct_of_not_wf {c : Config} (h : c.wf = false) (fi ei ci : List Byte) :
    State.construct c fi ei ci = .refused .configurationRefused := if_pos h

theorem construct_of_wrongSize {c : Config} (h : c.wf = true) {fi ei : List Byte}
    (hsize : fi.length ≠ c.variant.size ∨ ei.length ≠ 2048) (ci : List Byte) :
    State.construct c fi ei ci = .refused .imageWrongSize := by
  simp only [State.construct, h, Bool.true_eq_false, if_false, if_pos hsize]

/-- The configuration of a constructed machine: the parameters given, the length of the card's image and
the card kind resolved from it (44_spi_card.md R271, R274). -/
def constructedCfg (c : Config) (ci : List Byte) : Config :=
  { c with imgLen := ci.length, autoKind := Config.resolveAuto ci }

theorem constructedCfg_wf (c : Config) (ci : List Byte) : (constructedCfg c ci).wf = c.wf := rfl

/-- The machine constructed from images of the right sizes: the three engines at power-on, nothing yet done
and nothing pending. -/
def constructed (c : Config) (fi ei ci : List Byte) : State where
  cfg := constructedCfg c ci
  clk := 0
  flash := FlashChip.powerOn (Memory.ofBytes 0 fi)
  eeprom := SerialEeprom.powerOn (Memory.ofBytes 0 ei)
  card := SpiCard.powerOn
  image := Memory.ofBytes 0 ci
  ioFail := []
  inputs := []
  outputs := []

theorem construct_of_wf {c : Config} (h : c.wf = true) {fi ei : List Byte}
    (hflash : fi.length = c.variant.size) (heeprom : ei.length = 2048) (ci : List Byte) :
    State.construct c fi ei ci = .next (constructed c fi ei ci) := by
  have hsizes : ¬(fi.length ≠ c.variant.size ∨ ei.length ≠ 2048) := by
    rintro (hne | hne)
    · exact hne hflash
    · exact hne heeprom
  simp only [State.construct, h, Bool.true_eq_false, if_false, if_neg hsizes]
  rfl

theorem constructed_arraysCanonical {c : Config} {fi ei : List Byte}
    (hflash : fi.length = c.variant.size) (heeprom : ei.length = 2048) (ci : List Byte) :
    (constructed c fi ei ci).ArraysCanonical :=
  ⟨ofBytes_canonical hflash, ofBytes_canonical heeprom, ofBytes_canonical rfl⟩

/-- Settles O59, by the three outcomes of construction. -/
theorem construction : Obligations.Construction := by
  intro c fi ei ci
  refine ⟨fun h => construct_of_not_wf h fi ei ci, fun h hsize => construct_of_wrongSize h hsize ci, ?_⟩
  intro h hflash heeprom
  refine ⟨Memory.ofBytes 0 fi, Memory.ofBytes 0 ei, Memory.ofBytes 0 ci, constructed c fi ei ci,
    fun _ => read_ofBytes_zero, fun _ => read_ofBytes_zero, fun _ => read_ofBytes_zero, rfl,
    rfl, rfl, rfl, construct_of_wf h hflash heeprom ci, ?_⟩
  exact ⟨constructed_arraysCanonical hflash heeprom ci,
    flashInv_of_powerOn ((constructedCfg_wf c ci).trans h) rfl,
    eepromInv_powerOn _, cardInv_powerOn _⟩

/-! ## The separation of the engines -/

/-- A tick advances the counter by one and otherwise reaches the FlashChip alone. -/
theorem tick_frame (s : State) : ∃ f, s.tick = { s with clk := s.clk + 1, flash := f } := by
  by_cases h : s.flash.eraseTimer = some (s.clk + 1)
  · exact ⟨_, tick_of_eq h⟩
  · exact ⟨_, tick_of_ne h⟩

theorem expireStep_frame (s : State) : ∃ f, s.expireStep = { s with flash := f } := by
  unfold State.expireStep
  split
  · exact ⟨_, rfl⟩
  · exact ⟨_, rfl⟩

theorem snapshotLoad_frame (s : State) (major : Nat) (bytes : List Byte) :
    ∃ f out, s.snapshotLoad major bytes = { s with flash := f, outputs := out } := by
  unfold State.snapshotLoad
  split
  · split
    · exact ⟨_, _, rfl⟩
    · exact ⟨_, _, rfl⟩
  · exact ⟨_, _, rfl⟩

/-- A FlashChip operation other than a tick reaches the chip and the values returned, nothing else. -/
theorem after_flash_frame {op : Op} (hport : port op = .flash) (htick : op ≠ .flTick) (s : State) :
    ∃ f out, after op s = { s with flash := f, outputs := out } := by
  cases op with
  | flWrite a b rmw => cases rmw <;> exact ⟨_, _, rfl⟩
  | flTick => exact absurd rfl htick
  | flExpire =>
    obtain ⟨f, hf⟩ := expireStep_frame s
    exact ⟨f, s.outputs, hf⟩
  | flLoad major bytes => exact snapshotLoad_frame s major bytes
  | flRead _ | flPeek _ | flReset | flSave | flClearDirty => exact ⟨_, _, rfl⟩
  | _ => cases hport

/-- An operation on the EEPROM reaches it and the values returned, nothing else. -/
theorem after_eeprom_frame {op : Op} (hport : port op = .eeprom) (s : State) :
    ∃ e out, after op s = { s with eeprom := e, outputs := out } := by
  cases op with
  | eeSelect _ | eeClock _ | eeData _ | eeReadData | eeReset | eeFrame _ => exact ⟨_, _, rfl⟩
  | _ => cases hport

/-- What the card leaves alone, as a record update. -/
theorem sameOutside_update {s t : State} (h : SameOutside s t) :
    t = { s with card := t.card, image := t.image, ioFail := t.ioFail } := by
  cases s
  cases t
  obtain ⟨rfl, rfl, rfl, rfl, rfl, rfl⟩ := h
  rfl

/-- An operation on the card reaches it, its image, the image's coming answers and the values returned. -/
theorem after_card_frame {op : Op} (hport : port op = .card) (s : State) :
    ∃ c image io out,
      after op s = { s with card := c, image := image, ioFail := io, outputs := out } := by
  cases op with
  | sdWrite b => exact ⟨_, _, _, _, sameOutside_update (dataWrite_same s b)⟩
  | sdFrame bytes => exact ⟨_, _, _, _, sameOutside_update (dataWrites_same bytes s)⟩
  | sdRead | sdReset => exact ⟨_, _, _, _, rfl⟩
  | _ => cases hport

/-- No operation changes the configuration or the pending operations. -/
theorem after_cfg_inputs (op : Op) (s : State) :
    (after op s).cfg = s.cfg ∧ (after op s).inputs = s.inputs := by
  by_cases htick : op = .flTick
  · obtain ⟨f, hf⟩ := tick_frame s
    rw [htick, after, hf]
    exact ⟨rfl, rfl⟩
  cases hport : port op with
  | flash =>
    obtain ⟨f, out, hframe⟩ := after_flash_frame hport htick s
    exact hframe ▸ ⟨rfl, rfl⟩
  | eeprom =>
    obtain ⟨e, out, hframe⟩ := after_eeprom_frame hport s
    exact hframe ▸ ⟨rfl, rfl⟩
  | card =>
    obtain ⟨c, image, io, out, hframe⟩ := after_card_frame hport s
    exact hframe ▸ ⟨rfl, rfl⟩

/-- An operation on the FlashChip leaves the other two engines and the image; only a tick counts. -/
theorem after_flash_outside {op : Op} (hport : port op = .flash) (s : State) :
    (after op s).eeprom = s.eeprom ∧ (after op s).card = s.card ∧ (after op s).image = s.image
      ∧ (after op s).ioFail = s.ioFail ∧ (op ≠ .flTick → (after op s).clk = s.clk) := by
  by_cases htick : op = .flTick
  · obtain ⟨f, hf⟩ := tick_frame s
    rw [htick, after, hf]
    exact ⟨rfl, rfl, rfl, rfl, fun hne => absurd rfl hne⟩
  · obtain ⟨f, out, hframe⟩ := after_flash_frame hport htick s
    exact hframe ▸ ⟨rfl, rfl, rfl, rfl, fun _ => rfl⟩

/-- Settles O58: each operation has one interface, and the frame of that interface's operations. -/
theorem enginesShareNothing : Obligations.EnginesShareNothing := by
  intro op s t h
  obtain ⟨-, rfl⟩ := perform_next h
  obtain ⟨hcfg, hinputs⟩ := after_cfg_inputs op s
  refine ⟨hcfg, hinputs, fun hop => ?_, fun hop => ?_, fun hop => ?_⟩
  · have hport : port op = .flash := by
      rcases hop with ⟨a, rfl⟩ | ⟨a, b, rmw, rfl⟩ | ⟨a, rfl⟩ | rfl | rfl | rfl | rfl
        | ⟨major, bytes, rfl⟩ | rfl <;> rfl
    exact after_flash_outside hport s
  · have hport : port op = .eeprom := by
      rcases hop with ⟨v, rfl⟩ | ⟨v, rfl⟩ | ⟨b, rfl⟩ | rfl | rfl | ⟨bits, rfl⟩ <;> rfl
    obtain ⟨e, out, hframe⟩ := after_eeprom_frame hport s
    exact hframe ▸ ⟨rfl, rfl, rfl, rfl, rfl⟩
  · have hport : port op = .card := by
      rcases hop with ⟨b, rfl⟩ | rfl | rfl | ⟨bytes, rfl⟩ <;> rfl
    obtain ⟨c, image, io, out, hframe⟩ := after_card_frame hport s
    exact hframe ▸ ⟨rfl, rfl, rfl⟩

end Sys2Proof.Proofs

/-! The state of the machine (spec/10_state.md): what a step is, the canonical form of the three arrays, the
FlashChip's invariant, the instructions that can change its array, and the layout of its snapshot. -/

namespace Sys2Proof.Proofs

open Laws.UnitOfEngine (port)
open Machine Laws

/-! ## A step is the operation it takes -/

/-- The digits of a number, the low `k` of them split off as an operand. -/
theorem msbBits_split (m k v : Nat) :
    msbBits (m + k) v = msbBits m (v / 2 ^ k) ++ msbBits k (BitVec.ofNat k v).toNat := by
  have hlow : msbBits k (BitVec.ofNat k v).toNat = msbBits k v := by
    have h := msbBits_bitsValue (msbBits k v)
    rwa [msbBits_length, bitsValue_msbBits] at h
  rw [hlow]
  induction m with
  | zero => rw [Nat.zero_add, msbBits, List.nil_append]
  | succ m ih =>
    rw [Nat.succ_add, msbBits, ih, msbBits, Nat.testBit_div_two_pow, List.cons_append]

/-- A run of bits is a class and an operand, as the frames of 30_encoding.md R117 are written. -/
theorem class_append_operand {bits : List Bool} {m k c : Nat} (hlen : bits.length = m + k)
    (hclass : bitsValue bits / 2 ^ k = c) :
    msbBits m c ++ msbBits k (BitVec.ofNat k (bitsValue bits)).toNat = bits := by
  rw [← hclass, ← msbBits_split, ← hlen, msbBits_bitsValue]

/-- A run of bits is a class, an operand and a data word. -/
theorem class_append_operand_word {bits : List Bool} {m k c : Nat} (hlen : bits.length = m + k + 16)
    (hclass : bitsValue bits / 65536 / 2 ^ k = c) :
    msbBits m c ++ msbBits k (BitVec.ofNat k (bitsValue bits / 65536)).toNat
      ++ msbBits 16 (BitVec.ofNat 16 (bitsValue bits)).toNat = bits := by
  rw [← hclass, ← msbBits_split]
  exact class_append_operand hlen rfl

theorem encode_of_decodeBits {bits : List Bool} {i : Instr} (h : decodeBits bits = .ok i) :
    encode i = .eeFrame bits := by
  unfold decodeBits at h
  simp only at h
  split at h
  · next hzero =>
    cases h
    rw [hzero, encode]
  split at h
  · next hlen =>
    split_ifs at h with hread herase hwds heral hwen <;> cases h <;> refine congrArg Op.eeFrame ?_
    · exact class_append_operand hlen hread
    · exact class_append_operand hlen herase
    · exact class_append_operand hlen hwds
    · exact class_append_operand hlen heral
    · exact class_append_operand hlen hwen
  split at h
  · next hlen =>
    split_ifs at h with hwrite hwral <;> cases h <;> refine congrArg Op.eeFrame ?_
    · exact class_append_operand_word hlen (by rw [Nat.div_div_eq_div_mul]; exact hwrite)
    · exact class_append_operand_word hlen (by rw [Nat.div_div_eq_div_mul]; exact hwral)
  · cases h

theorem encode_of_decodeBytes {bytes : List Byte} {i : Instr} (h : decodeBytes bytes = .ok i) :
    encode i = .sdFrame bytes := by
  unfold decodeBytes at h
  split at h
  · next sync c b2 b3 b4 b5 =>
    simp only [bne_iff_ne, ne_eq, ite_not] at h
    split_ifs at h <;> cases h <;> subst_vars <;>
      simp [encode, sdFrameBytes, argBytes_argOfBytes]
  · next sync c b2 b3 b4 b5 crc x1 x0 =>
    have htail : sdTail crc (x1 ++ x0) = [crc, x1, x0] := by
      have hhigh : highByte (x1 ++ x0) = x1 := BitVec.extractLsb'_append_eq_left
      have hlow : lowByte (x1 ++ x0) = x0 := BitVec.extractLsb'_append_eq_right
      rw [sdTail, hhigh, hlow]
    simp only [bne_iff_ne, ne_eq, ite_not] at h
    split_ifs at h <;> cases h <;> subst_vars <;>
      simp [encode, sdFrameBytes, argBytes_argOfBytes, htail]
  · cases h

theorem encode_decodeRead (q : FlashState) (a : Nat) : encode (decodeRead q a) = .flRead a := by
  cases q <;> rfl

theorem encode_of_decodeExpire {q : FlashState} {i : Instr} (h : decodeExpire q = .ok i) :
    encode i = .flExpire := by
  cases q <;> cases h <;> rfl

theorem encode_decodeClock (c : Ctx) (v : Bool) : encode (decodeClock c v) = .eeClock v := by
  unfold decodeClock
  split
  · next hedge =>
    simp only [Bool.and_eq_true] at hedge
    obtain ⟨⟨rfl, -⟩, -⟩ := hedge
    split_ifs <;> rfl
  · rfl

theorem encode_of_decodeCardByte {q : CardState} {p : WritePhase} {b : Byte} {i : Instr}
    (h : decodeCardByte q p b = .ok i) : encode i = .sdWrite b := by
  unfold decodeCardByte at h
  split at h
  case h_1 | h_2 =>
    split at h
    · split_ifs at h with htoken
      cases h
      rw [htoken, encode]
    · cases h; rfl
    · cases h; rfl
  all_goals cases h

theorem encode_decodeCardRead (q : CardState) : encode (decodeCardRead q) = .sdRead := by
  cases q <;> rfl

/-- The row an operation selects has that operation for its encoding, in every context. -/
theorem encode_of_decode {c : Ctx} {op : Op} {i : Instr} (h : decode c op = .ok i) :
    encode i = op := by
  cases op with
  | flRead a => cases h; exact encode_decodeRead c.seq a
  | flWrite a b rmw =>
    cases h
    cases rmw
    · exact encode_decodeWrite c.variant c.seq a b
    · rfl
  | flExpire => exact encode_of_decodeExpire h
  | eeSelect v =>
    simp only [decode] at h
    split at h
    · cases h
    · cases h
      cases v <;> rfl
  | eeClock v => cases h; exact encode_decodeClock c v
  | eeFrame bits => exact encode_of_decodeBits h
  | sdWrite b => exact encode_of_decodeCardByte h
  | sdRead => cases h; exact encode_decodeCardRead c.card
  | sdFrame bytes => exact encode_of_decodeBytes h
  | flClearDirty => cases h
  | _ => cases h; rfl

/-- A step is idle, or it performs the operation it takes from the list, row of the table or not. -/
theorem step_next {s t : State} (h : step s = .next t) :
    (s.inputs = [] ∧ t = s)
    ∨ ∃ op rest, s.inputs = op :: rest ∧ opInRange s.cfg.variant op
      ∧ t = after op { s with inputs := rest } := by
  unfold step at h
  rcases hin : s.inputs with _ | ⟨op, rest⟩ <;> simp only [State.fetch, hin] at h
  · cases h
    exact .inl ⟨rfl, rfl⟩
  · have hperform : perform op { s with inputs := rest } = .next t := by
      split at h
      · next i hdecode => rwa [exec_eq_perform, encode_of_decode hdecode] at h
      · exact h
    exact .inr ⟨op, rest, rfl, perform_next hperform⟩

/-! ## The canonical form of the arrays -/

/-- One array as `State.ArraysCanonical` wants it: the canonical form, and no address beyond its size. -/
abbrev Canonical (array : Memory) (size : Nat) : Prop :=
  array.wf = true ∧ array.below size = true

theorem arraysCanonical_iff (s : State) :
    s.ArraysCanonical ↔ Canonical s.flash.data s.cfg.variant.size
      ∧ Canonical s.eeprom.cells 2048 ∧ Canonical s.image s.cfg.imgLen := Iff.rfl

theorem canonical_write {m : Memory} {size a : Nat} (h : Canonical m size) (ha : a < size)
    (b : Byte) : Canonical (m.write a b) size :=
  ⟨write_wf h.1 a b, write_below h.2 ha b⟩

theorem canonical_erase {m : Memory} {size : Nat} (h : Canonical m size) (lo n : Nat) :
    Canonical (m.erase lo n) size :=
  ⟨erase_wf h.1 lo n, erase_below h.2 lo n⟩

theorem canonical_writeRange {m : Memory} {size lo : Nat} {bytes : List Byte}
    (h : Canonical m size) (hrange : lo + bytes.length ≤ size) :
    Canonical (m.writeRange lo bytes) size :=
  ⟨writeRange_wf h.1 lo bytes, writeRange_below lo bytes hrange h.2⟩

theorem canonical_writeWord {m : Memory} (h : Canonical m 2048) (a : BitVec 10) (d : BitVec 16) :
    Canonical (m.writeWord a.toNat d) 2048 :=
  ⟨writeWord_wf h.1 a.toNat d, writeWord_below h.2 (by omega) d⟩

theorem canonical_writeWords {m : Memory} (h : Canonical m 2048) (d : BitVec 16) :
    Canonical (m.writeWords d 1024) 2048 :=
  ⟨writeWords_wf h.1 d 1024, writeWords_below d 1024 (by omega) h.2⟩

/-! ### FlashChip -/

theorem store_canonical {f : FlashChip} {c : Config} {a : Nat} (ha : a < c.variant.size)
    (h : Canonical f.data c.variant.size) (clk : Nat) (b : Byte) :
    Canonical (f.store c clk a b).data c.variant.size := by
  rw [store_data]
  split
  · exact canonical_write h ha _
  · exact h

/-- What the expiry handler does in each state (42_flash_erase_timer.md R202 to R206). -/
theorem expire_cases (f : FlashChip) (c : Config) (clk : Nat) :
    (f.seq = .sectorEraseTimeout ∧ f.expire c clk = f.cancel.expireTimeout c clk)
    ∨ (f.seq = .sectorErase ∧ f.expire c clk = f.cancel.expireSector c clk)
    ∨ (f.seq = .chipErase ∧ f.expire c clk = f.cancel.expireChip c)
    ∨ (timed f.seq = false ∧ f.expire c clk = f.cancel) := by
  unfold FlashChip.expire
  cases f.seq
  case sectorEraseTimeout => exact .inl ⟨rfl, rfl⟩
  case sectorErase => exact .inr (.inl ⟨rfl, rfl⟩)
  case chipErase => exact .inr (.inr (.inl ⟨rfl, rfl⟩))
  all_goals exact .inr (.inr (.inr ⟨rfl, rfl⟩))

theorem expireSector_data (f : FlashChip) (c : Config) (clk : Nat) :
    (f.expireSector c clk).data = f.data
    ∨ ∃ lo n, (f.expireSector c clk).data = f.data.erase lo n := by
  rcases expireSector_cases f c clk with ⟨-, hexpire⟩ | ⟨i, -, hexpire⟩ <;> rw [hexpire]
  · exact .inl rfl
  · simp only
    split
    · exact .inr ⟨_, _, rfl⟩
    · exact .inl rfl

/-- The expiry handler touches the array only in the two states that erase. -/
theorem expire_data (f : FlashChip) (c : Config) (clk : Nat) :
    (f.expire c clk).data = f.data
    ∨ (f.seq = .sectorErase ∨ f.seq = .chipErase)
      ∧ ∃ lo n, (f.expire c clk).data = f.data.erase lo n := by
  rcases expire_cases f c clk with ⟨-, hexpire⟩ | ⟨hseq, hexpire⟩ | ⟨hseq, hexpire⟩ | ⟨-, hexpire⟩ <;>
    rw [hexpire]
  · exact .inl rfl
  · exact (expireSector_data f.cancel c clk).imp id fun herase => ⟨.inl hseq, herase⟩
  · exact .inr ⟨.inr hseq, 0, c.variant.size, rfl⟩
  · exact .inl rfl

theorem expire_canonical {f : FlashChip} {size : Nat} (h : Canonical f.data size) (c : Config)
    (clk : Nat) : Canonical (f.expire c clk).data size := by
  rcases expire_data f c clk with hdata | ⟨-, lo, n, hdata⟩ <;> rw [hdata]
  · exact h
  · exact canonical_erase h lo n

@[simp] theorem armLoaded_data (f : FlashChip) (c : Config) (clk : Nat) :
    (f.armLoaded c clk).data = f.data := by
  unfold FlashChip.armLoaded
  cases f.seq <;> rfl

/-- A load that succeeds takes the array from the last SIZE bytes of the snapshot. -/
theorem load_data {f g : FlashChip} {c : Config} {clk : Nat} {bytes : List Byte}
    (h : f.load c clk bytes = some g) :
    ∃ content, content.length = c.variant.size ∧ g.data = Memory.ofBytes 0 content := by
  unfold FlashChip.load at h
  split at h
  · next content =>
    split at h
    · next hlen =>
      split at h
      · cases h
        exact ⟨content, hlen, armLoaded_data _ _ _⟩
      · cases h
    · cases h
  · cases h

/-- The array after a tick is the array before it or the one the handler leaves. -/
theorem tick_data (s : State) :
    s.tick.flash.data = s.flash.data
    ∨ s.tick.flash.data = (s.flash.expire s.cfg (s.clk + 1)).data := by
  by_cases h : s.flash.eraseTimer = some (s.clk + 1)
  · exact .inr (by rw [tick_of_eq h])
  · exact .inl (by rw [tick_of_ne h])

theorem expireStep_data (s : State) :
    s.expireStep.flash.data = s.flash.data
    ∨ s.expireStep.flash.data = (s.flash.expire s.cfg s.clk).data := by
  unfold State.expireStep
  split
  · exact .inr rfl
  · exact .inl rfl

/-- The array after a load is the array before it or the snapshot's. -/
theorem snapshotLoad_data (s : State) (major : Nat) (bytes : List Byte) :
    (s.snapshotLoad major bytes).flash.data = s.flash.data
    ∨ ∃ content, content.length = s.cfg.variant.size
      ∧ (s.snapshotLoad major bytes).flash.data = Memory.ofBytes 0 content := by
  unfold State.snapshotLoad
  split
  · split
    · next g hload => exact .inr (load_data hload)
    · exact .inl rfl
  · exact .inl rfl

/-- The operations that can reach the FlashChip's array: a write cycle, the two ways its timer expires, and
a snapshot load. -/
theorem after_data (op : Op) (s : State) :
    (after op s).flash.data = s.flash.data
    ∨ (∃ a b rmw, op = .flWrite a b rmw) ∨ op = .flTick ∨ op = .flExpire
    ∨ ∃ major bytes, op = .flLoad major bytes := by
  cases op with
  | flWrite a b rmw => exact .inr (.inl ⟨a, b, rmw, rfl⟩)
  | flTick => exact .inr (.inr (.inl rfl))
  | flExpire => exact .inr (.inr (.inr (.inl rfl)))
  | flLoad major bytes => exact .inr (.inr (.inr (.inr ⟨major, bytes, rfl⟩)))
  | sdWrite b => exact .inl (congrArg FlashChip.data (dataWrite_same s b).flash)
  | sdFrame bytes => exact .inl (congrArg FlashChip.data (dataWrites_same bytes s).flash)
  | _ => exact .inl rfl

/-- Every operation keeps the FlashChip's array canonical. -/
theorem after_flash_canonical {op : Op} {s : State} (hop : opInRange s.cfg.variant op)
    (h : Canonical s.flash.data s.cfg.variant.size) :
    Canonical (after op s).flash.data s.cfg.variant.size := by
  rcases after_data op s with hdata | ⟨a, b, rmw, rfl⟩ | rfl | rfl | ⟨major, bytes, rfl⟩
  · exact hdata ▸ h
  · have hfirst := store_canonical hop h s.clk
    cases rmw
    · exact hfirst b
    · exact store_canonical hop (hfirst s.flash.lastRead) s.clk b
  · rcases tick_data s with hdata | hdata <;> rw [after, hdata]
    · exact h
    · exact expire_canonical h s.cfg (s.clk + 1)
  · rcases expireStep_data s with hdata | hdata <;> rw [after, hdata]
    · exact h
    · exact expire_canonical h s.cfg s.clk
  · rcases snapshotLoad_data s major bytes with hdata | ⟨content, hlen, hdata⟩ <;> rw [after, hdata]
    · exact h
    · exact ofBytes_canonical hlen

/-! ### SerialEEPROM -/

@[simp] theorem startBit_cells (e : SerialEeprom) : e.startBit.cells = e.cells := by
  unfold SerialEeprom.startBit
  split <;> rfl

@[simp] theorem opcodeClass_cells (e : SerialEeprom) : e.opcodeClass.cells = e.cells := by
  unfold SerialEeprom.opcodeClass
  simp only
  split_ifs <;> rfl

@[simp] theorem subOpcode_cells (e : SerialEeprom) : e.subOpcode.cells = e.cells := by
  unfold SerialEeprom.subOpcode
  simp only
  split_ifs <;> rfl

@[simp] theorem streamEdge_cells (e : SerialEeprom) : e.streamEdge.cells = e.cells := by
  unfold SerialEeprom.streamEdge
  split <;> rfl

@[simp] theorem writeSelect_cells (e : SerialEeprom) (v : Bool) :
    (e.writeSelect v).cells = e.cells := by
  have hrise : e.selectRise.cells = e.cells := by
    unfold SerialEeprom.selectRise
    split <;> rfl
  have hfall : e.selectFall.cells = e.cells := by
    unfold SerialEeprom.selectFall
    cases e.command <;> rfl
  unfold SerialEeprom.writeSelect
  split_ifs
  · rfl
  · exact hrise
  · exact hfall

theorem cmdEral_canonical {e : SerialEeprom} (h : Canonical e.cells 2048) :
    Canonical e.cmdEral.cells 2048 := by
  unfold SerialEeprom.cmdEral
  split
  · exact canonical_erase h 0 2048
  · exact h

theorem cmdErase_canonical {e : SerialEeprom} (h : Canonical e.cells 2048) :
    Canonical e.cmdErase.cells 2048 := by
  unfold SerialEeprom.cmdErase
  split
  · exact canonical_writeWord h e.addr _
  · exact h

theorem cmdWrite_canonical {e : SerialEeprom} (h : Canonical e.cells 2048) (d : BitVec 16) :
    Canonical (e.cmdWrite d).cells 2048 := by
  unfold SerialEeprom.cmdWrite
  split
  · exact canonical_writeWord h e.addr d
  · exact h

theorem cmdWral_cells (e : SerialEeprom) (d : BitVec 16) :
    (e.cmdWral d).cells = if e.wel then e.cells.writeWords d 1024 else e.cells := by
  simp only [SerialEeprom.cmdWral, apply_ite SerialEeprom.cells, idle_cells]

theorem cmdWral_canonical {e : SerialEeprom} (h : Canonical e.cells 2048) (d : BitVec 16) :
    Canonical (e.cmdWral d).cells 2048 := by
  rw [cmdWral_cells]
  split
  · exact canonical_writeWords h d
  · exact h

/-- At the thirteenth bit only ERAL and ERASE reach the array. -/
theorem addressDone_canonical {e : SerialEeprom} (h : Canonical e.cells 2048) :
    Canonical e.addressDone.cells 2048 := by
  unfold SerialEeprom.addressDone
  simp only
  split
  case h_4 => exact cmdEral_canonical h
  case h_5 => exact cmdErase_canonical h
  all_goals exact h

/-- At the twenty-ninth bit only WRITE and WRAL reach the array. -/
theorem dataDone_canonical {e : SerialEeprom} (h : Canonical e.cells 2048) :
    Canonical e.dataDone.cells 2048 := by
  unfold SerialEeprom.dataDone
  simp only
  split
  case h_1 => exact cmdWrite_canonical h _
  case h_2 => exact cmdWral_canonical h _
  all_goals exact h

theorem threshold_canonical {e : SerialEeprom} (h : Canonical e.cells 2048) :
    Canonical e.threshold.cells 2048 := by
  unfold SerialEeprom.threshold
  split_ifs
  · rwa [startBit_cells]
  · rwa [opcodeClass_cells]
  · rwa [subOpcode_cells]
  · exact addressDone_canonical h
  · exact dataDone_canonical h
  · exact h

theorem risingEdge_canonical {e : SerialEeprom} (h : Canonical e.cells 2048) :
    Canonical e.risingEdge.cells 2048 := by
  have hshift : Canonical e.shiftBit.cells 2048 := threshold_canonical h
  unfold SerialEeprom.risingEdge
  cases e.command
  case readAddrLatched => exact h
  case readStreaming => rwa [streamEdge_cells]
  all_goals exact hshift

theorem writeClock_canonical {e : SerialEeprom} (h : Canonical e.cells 2048) (v : Bool) :
    Canonical (e.writeClock v).cells 2048 := by
  unfold SerialEeprom.writeClock
  split
  · exact risingEdge_canonical h
  · exact h

theorem clockBits_canonical {e : SerialEeprom} (h : Canonical e.cells 2048) (bits : List Bool) :
    Canonical (e.clockBits bits).cells 2048 := by
  induction bits generalizing e with
  | nil => exact h
  | cons b bits ih =>
    rw [clockBits_cons]
    have hdata : Canonical (e.writeData b).cells 2048 := h
    exact ih (writeClock_canonical (writeClock_canonical hdata true) false)

/-- Every operation keeps the EEPROM's array canonical. -/
theorem after_eeprom_canonical (op : Op) {s : State} (h : Canonical s.eeprom.cells 2048) :
    Canonical (after op s).eeprom.cells 2048 := by
  cases hport : port op with
  | flash =>
    obtain ⟨heeprom, -⟩ := after_flash_outside hport s
    rwa [heeprom]
  | card =>
    obtain ⟨c, image, io, out, hframe⟩ := after_card_frame hport s
    rwa [hframe]
  | eeprom =>
    cases op with
    | eeSelect v => rwa [after, setEeprom_eeprom, writeSelect_cells]
    | eeClock v => exact writeClock_canonical h v
    | eeFrame bits => exact clockBits_canonical h bits
    | eeData _ | eeReadData | eeReset => exact h
    | _ => cases hport

/-! ### The card's image -/

theorem commitBlock_canonical {s : State} (h : Canonical s.image s.cfg.imgLen) :
    Canonical s.commitBlock.image s.cfg.imgLen := by
  obtain ⟨io, ok, hcommit, hok⟩ := commitBlock_eq s
  rw [hcommit]
  cases ok
  · exact h
  · obtain ⟨-, -, hrange⟩ := hok rfl
    exact canonical_writeRange h hrange

/-- A byte of a block write reaches the image only by the commit of a block. -/
theorem blockByte_image (s : State) (b : Byte) :
    (s.blockByte b).image = s.image
    ∨ ∃ c, (s.blockByte b).image = (s.setCard c).commitBlock.image := by
  unfold State.blockByte
  split
  · unfold State.tokenByte
    simp only
    split_ifs
    · exact .inr ⟨_, rfl⟩
    · exact .inl rfl
    · exact .inl rfl
  · unfold State.dataByte
    simp only
    split_ifs
    · exact .inr ⟨_, rfl⟩
    · exact .inl rfl
  · unfold State.crcByte
    split_ifs <;> exact .inl rfl

theorem dataWrite_canonical {s : State} (h : Canonical s.image s.cfg.imgLen) (b : Byte) :
    Canonical (s.dataWrite b).image s.cfg.imgLen := by
  have hblock : Canonical (s.blockByte b).image s.cfg.imgLen := by
    rcases blockByte_image s b with himage | ⟨c, himage⟩ <;> rw [himage]
    · exact h
    · exact commitBlock_canonical (s := s.setCard c) h
  have hframe : Canonical (s.frameByte b).image s.cfg.imgLen := by
    rwa [(frameByte_same s b).2]
  unfold State.dataWrite
  cases s.card.state
  case write | dummyWrite => exact hblock
  all_goals exact hframe

theorem dataWrites_canonical {s : State} (h : Canonical s.image s.cfg.imgLen)
    (bytes : List Byte) : Canonical (s.dataWrites bytes).image s.cfg.imgLen := by
  induction bytes generalizing s with
  | nil => exact h
  | cons b bytes ih =>
    have hcfg := (dataWrite_same s b).cfg
    have hfirst := dataWrite_canonical h b
    rw [← hcfg] at hfirst ⊢
    exact ih hfirst

/-- Every operation keeps the card's image canonical. -/
theorem after_image_canonical (op : Op) {s : State} (h : Canonical s.image s.cfg.imgLen) :
    Canonical (after op s).image s.cfg.imgLen := by
  cases hport : port op with
  | flash =>
    obtain ⟨-, -, himage, -⟩ := after_flash_outside hport s
    rwa [himage]
  | eeprom =>
    obtain ⟨e, out, hframe⟩ := after_eeprom_frame hport s
    rwa [hframe]
  | card =>
    cases op with
    | sdWrite b => exact dataWrite_canonical h b
    | sdFrame bytes => exact dataWrites_canonical h bytes
    | sdRead | sdReset => exact h
    | _ => cases hport

/-- Settles O53: a step is one operation, and each of the three arrays is kept by every operation. -/
theorem arraysStayCanonical : Obligations.ArraysStayCanonical := by
  intro s t h hstep
  rcases step_next hstep with ⟨-, rfl⟩ | ⟨op, rest, -, hop, rfl⟩
  · exact h
  · obtain ⟨hflash, heeprom, himage⟩ := h
    rw [arraysCanonical_iff, (after_cfg_inputs op _).1]
    exact ⟨after_flash_canonical hop hflash, after_eeprom_canonical op heeprom,
      after_image_canonical op himage⟩

/-! ## The FlashChip's invariant -/

/-! ### Its three parts -/

/-- 10_state.md R24: the resting point, and its agreement with `state` there. -/
def RestingAgrees (base q : FlashState) : Prop :=
  (base = .read ∨ base = .autoselect) ∧ (q = .read → base = .read)
    ∧ (q = .autoselect → base = .autoselect)

/-- 10_state.md R32: a timer for a later tick runs exactly in the timed states. -/
def TimerAgrees (timer : Option Nat) (q : FlashState) (clk : Nat) : Prop :=
  timer.isSome = timed q ∧ timer.all (fun t => decide (clk < t)) = true

/-- 10_state.md R25, R32: sectors are queued exactly in the sector erase states, and only those of the
chip. -/
def QueueAgrees (pending : BitVec 64) (q : FlashState) (v : Variant) : Prop :=
  (pending = 0#64 ↔ queued q = false)
    ∧ ∀ i < 64, pending.getLsbD i = true → i < v.size / v.sectorSize

/-- What a run keeps of the FlashChip, under a configuration and at a clock value. -/
structure ChipInv (f : FlashChip) (c : Config) (clk : Nat) : Prop where
  resting : RestingAgrees f.baseState f.seq
  timer : TimerAgrees f.eraseTimer f.seq clk
  queue : QueueAgrees f.pending f.seq c.variant

theorem flashInv_iff (s : State) :
    s.FlashInv ↔ s.cfg.wf = true ∧ ChipInv s.flash s.cfg s.clk := by
  constructor
  · rintro ⟨hcfg, hbase, hread, hauto, hsome, hlater, hempty, hsectors⟩
    exact ⟨hcfg, ⟨hbase, hread, hauto⟩, ⟨hsome, hlater⟩, ⟨hempty, hsectors⟩⟩
  · rintro ⟨hcfg, ⟨hbase, hread, hauto⟩, ⟨hsome, hlater⟩, ⟨hempty, hsectors⟩⟩
    exact ⟨hcfg, hbase, hread, hauto, hsome, hlater, hempty, hsectors⟩

/-- The durations of a well-formed configuration are at least one tick (00_scope.md R11). -/
theorem config_wf_parts {c : Config} (h : c.wf = true) :
    c.variant.wf = true ∧ 1 ≤ c.tSectorTimeout ∧ 1 ≤ c.tSectorErase ∧ 1 ≤ c.tChipErase := by
  simp only [Config.wf, Bool.and_eq_true, decide_eq_true_eq] at h
  obtain ⟨⟨⟨hvariant, htimeout⟩, hsector⟩, hchip⟩ := h
  exact ⟨hvariant, htimeout, hsector, hchip⟩

/-! ### Rules for the parts -/

/-- The chip at rest: `state` is the resting point. -/
theorem restingAgrees_base {base q : FlashState} (h : RestingAgrees base q) :
    RestingAgrees base base := ⟨h.1, id, id⟩

/-- Outside `Read` and `Autoselect` the resting point is free. -/
theorem restingAgrees_of_ne {base q q' : FlashState} (h : RestingAgrees base q)
    (hread : q' ≠ .read) (hauto : q' ≠ .autoselect) : RestingAgrees base q' :=
  ⟨h.1, fun hq => absurd hq hread, fun hq => absurd hq hauto⟩

theorem timerAgrees_none {q : FlashState} (h : timed q = false) (clk : Nat) :
    TimerAgrees none q clk := ⟨h.symm, rfl⟩

theorem timerAgrees_armed {q : FlashState} (h : timed q = true) (clk : Nat) {t : Nat} (ht : 1 ≤ t) :
    TimerAgrees (some (clk + t)) q clk :=
  ⟨h.symm, by rw [Option.all_some, decide_eq_true_eq]; omega⟩

theorem queueAgrees_empty {q : FlashState} (h : queued q = false) (v : Variant) :
    QueueAgrees 0#64 q v :=
  ⟨⟨fun _ => h, fun _ => rfl⟩, fun i _ hi => by simp at hi⟩

/-- The queue's agreement looks at the state only for whether it has a queue. -/
theorem queueAgrees_of_queued {p : BitVec 64} {q q' : FlashState} {v : Variant}
    (h : QueueAgrees p q v) (hq : queued q' = queued q) : QueueAgrees p q' v := by
  rwa [QueueAgrees, hq]

theorem queueAgrees_mark {p : BitVec 64} {q q' : FlashState} {v : Variant}
    (h : QueueAgrees p q v) (hq : queued q' = true) {i : Nat} (hi : i < 64)
    (hsector : i < v.size / v.sectorSize) : QueueAgrees (markSector p i) q' v := by
  have hne : markSector p i ≠ 0#64 := by
    intro hzero
    have hbit : (markSector p i).getLsbD i = true := by simp [getLsbD_markSector, hi]
    simp [hzero] at hbit
  refine ⟨⟨fun hzero => absurd hzero hne, fun hfalse => by simp [hq] at hfalse⟩, ?_⟩
  intro j hj hbit
  rw [getLsbD_markSector] at hbit
  by_cases hji : j = i
  · rwa [hji]
  · exact h.2 j hj (by simpa [hji] using hbit)

theorem queueAgrees_drop {p : BitVec 64} {q q' : FlashState} {v : Variant} {i : Nat}
    (h : QueueAgrees p q v) (hq : queued q' = true) (hne : dropSector p i ≠ 0#64) :
    QueueAgrees (dropSector p i) q' v := by
  refine ⟨⟨fun hzero => absurd hzero hne, fun hfalse => by simp [hq] at hfalse⟩, ?_⟩
  intro j hj hbit
  rw [getLsbD_dropSector, Bool.and_eq_true] at hbit
  exact h.2 j hj hbit.1

/-! ### Quiet states -/

/-- A state in which no erase runs or waits. -/
def quiet (q : FlashState) : Bool := !timed q && !queued q

theorem quiet_iff {q : FlashState} : quiet q = true ↔ timed q = false ∧ queued q = false := by
  simp [quiet]

theorem quiet_of_mem {states : List FlashState} {q : FlashState} (h : q ∈ states)
    (hall : states.all quiet = true) : quiet q = true :=
  List.all_eq_true.mp hall q h

theorem quiet_of_resting {base q : FlashState} (h : RestingAgrees base q) : quiet base = true := by
  rcases h.1 with rfl | rfl <;> rfl

/-- In a quiet state no timer runs and no sector is queued. -/
theorem chipInv_quiet {f : FlashChip} {c : Config} {clk : Nat} (h : ChipInv f c clk)
    (hquiet : quiet f.seq = true) : f.eraseTimer = none ∧ f.pending = 0#64 := by
  obtain ⟨htimed, hqueued⟩ := quiet_iff.mp hquiet
  obtain ⟨htimer, -⟩ := h.timer
  rw [htimed, Option.isSome_eq_false_iff, Option.isNone_iff_eq_none] at htimer
  exact ⟨htimer, h.queue.1.mpr hqueued⟩

/-- Where nothing runs and nothing is queued, the resting point is all that is left to agree. -/
theorem chipInv_of_quiet (f : FlashChip) (c : Config) (clk : Nat)
    (hresting : RestingAgrees f.baseState f.seq) (hquiet : quiet f.seq = true)
    (hidle : f.eraseTimer = none ∧ f.pending = 0#64) : ChipInv f c clk := by
  obtain ⟨htimed, hqueued⟩ := quiet_iff.mp hquiet
  obtain ⟨htimer, hpending⟩ := hidle
  refine ⟨hresting, ?_, ?_⟩
  · rw [htimer]
    exact timerAgrees_none htimed clk
  · rw [hpending]
    exact queueAgrees_empty hqueued c.variant

/-- The fall-back to the resting point, with nothing running. -/
theorem chipInv_gotoBase (f : FlashChip) (c : Config) (clk : Nat) {q : FlashState}
    (h : RestingAgrees f.baseState q) (hidle : f.eraseTimer = none ∧ f.pending = 0#64) :
    ChipInv f.gotoBase c clk :=
  chipInv_of_quiet f.gotoBase c clk (restingAgrees_base h) (quiet_of_resting h) hidle

/-! ### The store -/

/-- The sector of an address is one of the chip's (40_flash_store.md R158). -/
theorem sectorOf_lt {v : Variant} (h : v.wf = true) {a : Nat} (ha : a < v.size) :
    sectorOf v a < 64 ∧ sectorOf v a < v.size / v.sectorSize := by
  obtain ⟨k, -, hsector, hsize, -⟩ := variant_wf_geometry h
  have hdvd : v.sectorSize ∣ v.size := by
    rw [hsector, hsize]
    exact Nat.dvd_mul_left _ _
  rw [sectorOf_eq_div h ha]
  exact ⟨div_sectorSize_lt h ha, Nat.div_lt_div_of_lt_of_dvd hdvd ha⟩

/-- The data cycle of a program ends at the resting point or in `ByteProgramError`. -/
theorem programData_chipInv {f : FlashChip} {c : Config} {clk : Nat} (h : ChipInv f c clk)
    (hquiet : quiet f.seq = true) (a : Nat) (b : Byte) : ChipInv (f.programData a b) c clk := by
  have hidle := chipInv_quiet h hquiet
  unfold FlashChip.programData
  simp only
  split
  · exact chipInv_of_quiet _ c clk
      (restingAgrees_of_ne h.resting nofun nofun) rfl hidle
  · exact chipInv_gotoBase _ c clk h.resting hidle

/-- A store keeps the invariant, by the twelve things it can do. -/
theorem store_chipInv {f : FlashChip} {c : Config} {clk a : Nat} (hc : c.wf = true)
    (ha : a < c.variant.size) (h : ChipInv f c clk) (b : Byte) :
    ChipInv (f.store c clk a b) c clk := by
  obtain ⟨hvariant, htimeout, hsector, hchip⟩ := config_wf_parts hc
  obtain ⟨hmark64, hmark⟩ := sectorOf_lt hvariant ha
  have hidle : quiet f.seq = true → f.eraseTimer = none ∧ f.pending = 0#64 := chipInv_quiet h
  have ⟨hresting, htimer, hqueue⟩ := h
  rcases store_cases f c clk a b with hstore | ⟨hstore, hseq⟩ | ⟨q, hq, hstore, hseq, -⟩
    | ⟨hstore, hseq⟩ | ⟨hstore, hseq⟩ | ⟨hstore, hseq⟩ | ⟨hstore, hseq⟩ | ⟨hstore, hseq⟩
    | ⟨hstore, hseq⟩ | ⟨hstore, hseq⟩ | ⟨hstore, hseq⟩ | ⟨hstore, hseq⟩ <;> rw [hstore]
  · -- the cycle is not taken
    exact h
  · -- the sequence is abandoned
    exact chipInv_gotoBase f c clk hresting (hidle (quiet_of_mem hseq rfl))
  · -- the sequence advances
    have hfree : q ≠ .read ∧ q ≠ .autoselect := by
      constructor <;> rintro rfl <;> simp at hq
    exact chipInv_of_quiet (f.goto q) c clk (restingAgrees_of_ne hresting hfree.1 hfree.2)
      (quiet_of_mem hq rfl) (hidle (quiet_of_mem hseq rfl))
  · -- the autoselect command
    exact chipInv_of_quiet f.autoselect c clk ⟨.inr rfl, nofun, fun _ => rfl⟩ rfl
      (hidle (congrArg quiet hseq))
  · -- the reset commands
    exact chipInv_of_quiet f.returnToRead c clk ⟨.inl rfl, fun _ => rfl, nofun⟩ rfl
      (hidle (quiet_of_mem hseq rfl))
  · -- the data cycle of a program
    exact programData_chipInv h (congrArg quiet hseq) a b
  · -- chip erase accepted
    exact ⟨restingAgrees_of_ne hresting nofun nofun, timerAgrees_armed rfl clk hchip,
      queueAgrees_of_queued hqueue (congrArg queued hseq).symm⟩
  · -- sector erase accepted
    exact ⟨restingAgrees_of_ne hresting nofun nofun, timerAgrees_armed rfl clk htimeout,
      queueAgrees_mark hqueue rfl hmark64 hmark⟩
  · -- another sector queued
    exact ⟨hresting, htimer, queueAgrees_mark hqueue (congrArg queued hseq) hmark64 hmark⟩
  · -- the erase cancelled before it began
    exact chipInv_gotoBase { f with eraseTimer := none, pending := 0#64 } c clk hresting ⟨rfl, rfl⟩
  · -- the erase suspended
    exact ⟨restingAgrees_of_ne hresting nofun nofun, timerAgrees_none rfl clk,
      queueAgrees_of_queued hqueue (congrArg queued hseq).symm⟩
  · -- the erase resumed
    exact ⟨restingAgrees_of_ne hresting nofun nofun, timerAgrees_armed rfl clk hsector,
      queueAgrees_of_queued hqueue (congrArg queued hseq).symm⟩

/-! ### The clock and the timer -/

/-- The expiry of a sector erase: the next queued sector is timed, or the chip comes to rest. -/
theorem expireSector_chipInv {f : FlashChip} {c : Config} (hc : c.wf = true)
    (hresting : RestingAgrees f.baseState f.seq) (hqueue : QueueAgrees f.pending f.seq c.variant)
    (hseq : f.seq = .sectorErase) (htimer : f.eraseTimer = none) (clk : Nat) :
    ChipInv (f.expireSector c clk) c clk := by
  obtain ⟨-, -, hsector, -⟩ := config_wf_parts hc
  rcases expireSector_cases f c clk with ⟨hempty, hexpire⟩ | ⟨i, -, hexpire⟩ <;> rw [hexpire]
  · exact chipInv_gotoBase f c clk hresting ⟨htimer, hempty⟩
  · by_cases hlast : dropSector f.pending i = 0#64 <;> simp only [hlast, if_true, if_false]
    · exact chipInv_of_quiet _ c clk (restingAgrees_base hresting) (quiet_of_resting hresting)
        ⟨htimer, rfl⟩
    · exact ⟨hresting, timerAgrees_armed (congrArg timed hseq) clk hsector,
        queueAgrees_drop hqueue (congrArg queued hseq) hlast⟩

/-- The expiry handler keeps the invariant, whatever the clock was when the timer was armed. -/
theorem expire_chipInv {f : FlashChip} {c : Config} {clk₀ : Nat} (hc : c.wf = true)
    (h : ChipInv f c clk₀) (clk : Nat) : ChipInv (f.expire c clk) c clk := by
  obtain ⟨-, -, hsector, -⟩ := config_wf_parts hc
  obtain ⟨hresting, -, hqueue⟩ := h
  rcases expire_cases f c clk with ⟨hseq, hexpire⟩ | ⟨hseq, hexpire⟩ | ⟨hseq, hexpire⟩
    | ⟨htimed, hexpire⟩ <;> rw [hexpire]
  · exact ⟨restingAgrees_of_ne hresting nofun nofun, timerAgrees_armed rfl clk hsector,
      queueAgrees_of_queued hqueue (congrArg queued hseq).symm⟩
  · exact expireSector_chipInv (f := f.cancel) hc hresting hqueue hseq rfl clk
  · have hempty : f.pending = 0#64 := hqueue.1.mpr (congrArg queued hseq)
    exact chipInv_gotoBase (f.cancel.fill 0 c.variant.size) c clk hresting ⟨rfl, hempty⟩
  · exact ⟨hresting, timerAgrees_none htimed clk, hqueue⟩

/-- A tick keeps the invariant: the timer stays ahead of the counter, or its handler runs. -/
theorem tick_flashInv {s : State} (h : s.FlashInv) : s.tick.FlashInv := by
  obtain ⟨hcfg, hchip⟩ := (flashInv_iff s).mp h
  rw [flashInv_iff]
  by_cases hdue : s.flash.eraseTimer = some (s.clk + 1)
  · rw [tick_of_eq hdue]
    exact ⟨hcfg, expire_chipInv hcfg hchip (s.clk + 1)⟩
  · rw [tick_of_ne hdue]
    obtain ⟨hresting, ⟨hsome, hlater⟩, hqueue⟩ := hchip
    refine ⟨hcfg, hresting, ⟨hsome, ?_⟩, hqueue⟩
    rw [Option.all_eq_true] at hlater ⊢
    intro t ht
    have hlt := of_decide_eq_true (hlater t ht)
    have hne : t ≠ s.clk + 1 := fun heq => hdue (heq ▸ ht)
    have hnext : s.clk + 1 < t := by omega
    exact decide_eq_true hnext

theorem expireStep_flashInv {s : State} (h : s.FlashInv) : s.expireStep.FlashInv := by
  obtain ⟨hcfg, hchip⟩ := (flashInv_iff s).mp h
  unfold State.expireStep
  split
  · exact (flashInv_iff _).mpr ⟨hcfg, expire_chipInv hcfg hchip s.clk⟩
  · exact h

/-! ### Every operation -/

/-- Every FlashChip operation but a snapshot load keeps the invariant. -/
theorem after_flash_flashInv {op : Op} (hport : port op = .flash)
    (hload : ∀ major bytes, op ≠ .flLoad major bytes) {s : State}
    (hop : opInRange s.cfg.variant op) (h : s.FlashInv) : (after op s).FlashInv := by
  obtain ⟨hcfg, hchip⟩ := (flashInv_iff s).mp h
  cases op with
  | flWrite a b rmw =>
    have hfirst := store_chipInv hcfg hop hchip
    rw [flashInv_iff]
    cases rmw
    · exact ⟨hcfg, hfirst b⟩
    · exact ⟨hcfg, store_chipInv hcfg hop (hfirst s.flash.lastRead) b⟩
  | flReset =>
    exact (flashInv_iff _).mpr ⟨hcfg, chipInv_of_quiet s.flash.hwReset s.cfg s.clk
      ⟨.inl rfl, fun _ => rfl, nofun⟩ rfl ⟨rfl, rfl⟩⟩
  | flTick => exact tick_flashInv h
  | flExpire => exact expireStep_flashInv h
  | flLoad major bytes => exact absurd rfl (hload major bytes)
  | flRead _ | flPeek _ | flSave | flClearDirty => exact h
  | _ => cases hport

/-- The invariant is about the configuration, the clock and the FlashChip alone. -/
theorem after_flashInv {op : Op} (hload : ∀ major bytes, op ≠ .flLoad major bytes) {s : State}
    (hop : opInRange s.cfg.variant op) (h : s.FlashInv) : (after op s).FlashInv := by
  cases hport : port op with
  | flash => exact after_flash_flashInv hport hload hop h
  | eeprom =>
    obtain ⟨e, out, hframe⟩ := after_eeprom_frame hport s
    rw [hframe]
    exact h
  | card =>
    obtain ⟨c, image, io, out, hframe⟩ := after_card_frame hport s
    rw [hframe]
    exact h

/-- Settles O54: a step is one operation, here no load, and every other operation keeps the invariant. -/
theorem flashInvariantKept : Obligations.FlashInvariantKept := by
  intro s t h hhead hstep
  rcases step_next hstep with ⟨-, rfl⟩ | ⟨op, rest, hinputs, hop, rfl⟩
  · exact h
  · have hload : ∀ major bytes, op ≠ .flLoad major bytes := by
      rintro major bytes rfl
      exact hhead major bytes (by rw [hinputs, List.head?_cons])
    exact after_flashInv hload hop h

/-! ## What an instruction does to the FlashChip's array -/

/-- An instruction that goes on performs the operation of its encoding. -/
theorem exec_next {i : Instr} {s t : State} (h : exec i s = .next t) :
    opInRange s.cfg.variant (encode i) ∧ t = after (encode i) s :=
  perform_next ((exec_eq_perform i s).symm.trans h)

/-- No byte of the second array has a bit that the first has not. -/
def Submask (before now : Memory) : Prop := ∀ x, before.read x &&& now.read x = now.read x

theorem submask_refl (m : Memory) : Submask m m := fun _ => BitVec.and_self

theorem submask_trans {m₁ m₂ m₃ : Memory} (h₁₂ : Submask m₁ m₂) (h₂₃ : Submask m₂ m₃) :
    Submask m₁ m₃ := by
  intro x
  rw [← h₂₃ x, ← BitVec.and_assoc, h₁₂ x]

/-- A store programs by `and`, so it can only clear bits (40_flash_store.md R150). -/
theorem store_submask {f : FlashChip} (h : f.data.wf = true) (c : Config) (clk a : Nat) (b : Byte) :
    Submask f.data (f.store c clk a b).data := by
  rw [store_data]
  split
  · intro x
    rw [read_write h]
    split
    · next hx => rw [hx, ← BitVec.and_assoc, BitVec.and_self]
    · exact BitVec.and_self
  · exact submask_refl f.data

theorem store_wf {f : FlashChip} (h : f.data.wf = true) (c : Config) (clk a : Nat) (b : Byte) :
    (f.store c clk a b).data.wf = true := by
  rw [store_data]
  split
  · exact write_wf h a _
  · exact h

/-- Settles O7: a write cycle is one store or two, and a store only clears bits. -/
theorem onlyErasureSetsBits : Obligations.OnlyErasureSetsBits := by
  intro i s t hwf hexec htick hexpire hload
  obtain ⟨-, rfl⟩ := exec_next hexec
  change Submask s.flash.data (after (encode i) s).flash.data
  rcases after_data (encode i) s with hdata | ⟨a, b, rmw, hop⟩ | hop | hop | ⟨major, bytes, hop⟩
  · rw [hdata]
    exact submask_refl s.flash.data
  · have hfirst := store_submask hwf s.cfg s.clk a
    rw [hop]
    cases rmw
    · exact hfirst b
    · exact submask_trans (hfirst s.flash.lastRead)
        (store_submask (store_wf hwf s.cfg s.clk a s.flash.lastRead) s.cfg s.clk a b)
  · exact absurd hop htick
  · exact absurd hop hexpire
  · exact absurd hop (hload major bytes)

/-- A store that changes the array was the data cycle of a program. -/
theorem seq_of_store_data_ne {f : FlashChip} {c : Config} {clk a : Nat} {b : Byte}
    (h : (f.store c clk a b).data ≠ f.data) : f.seq = .byteProgram := by
  by_contra hseq
  exact h (by rw [store_data, if_neg hseq])

/-- Two stores in a row change the array only when one of them is the data cycle of a program: the first, or
the second after a set-up. -/
theorem seq_of_store_store_data_ne {f : FlashChip} {c : Config} {clk a : Nat} {b₁ b₂ : Byte}
    (hbase : f.baseState ≠ .byteProgram)
    (h : ((f.store c clk a b₁).store c clk a b₂).data ≠ f.data) :
    f.seq = .byteProgram ∨ f.seq = .unlock2 := by
  by_cases hfirst : (f.store c clk a b₁).data = f.data
  · rw [← hfirst] at h
    exact .inr (store_seq_byteProgram hbase (seq_of_store_data_ne h))
  · exact .inl (seq_of_store_data_ne hfirst)

/-- An expiry that changes the array ended an erase. -/
theorem seq_of_expire_data_ne {f : FlashChip} {c : Config} {clk : Nat}
    (h : (f.expire c clk).data ≠ f.data) : f.seq = .sectorErase ∨ f.seq = .chipErase := by
  rcases expire_data f c clk with hdata | ⟨hseq, -⟩
  · exact absurd hdata h
  · exact hseq

/-- Settles O8, by the operations that can reach the array. -/
theorem whereTheArrayChanges : Obligations.WhereTheArrayChanges := by
  intro i s t hbase hexec hne
  obtain ⟨-, rfl⟩ := exec_next hexec
  rcases after_data (encode i) s with hdata | ⟨a, b, rmw, hop⟩ | hop | hop | ⟨major, bytes, hop⟩
  · exact absurd hdata hne
  · rw [hop] at hne
    cases rmw
    · exact .inl ⟨a, b, hop, seq_of_store_data_ne hne⟩
    · have hfree : s.flash.baseState ≠ .byteProgram := by
        rcases hbase with h | h <;> rw [h] <;> nofun
      exact .inr (.inl ⟨a, b, hop, seq_of_store_store_data_ne hfree hne⟩)
  · rw [hop] at hne
    refine .inr (.inr (.inl ⟨.inl hop, ?_⟩))
    rcases tick_data s with hdata | hdata
    · exact absurd hdata hne
    · exact seq_of_expire_data_ne (hdata ▸ hne)
  · rw [hop] at hne
    refine .inr (.inr (.inl ⟨.inr hop, ?_⟩))
    rcases expireStep_data s with hdata | hdata
    · exact absurd hdata hne
    · exact seq_of_expire_data_ne (hdata ▸ hne)
  · exact .inr (.inr (.inr ⟨major, bytes, hop⟩))

/-! ## The snapshot -/

/-! ### The layout -/

/-- The table of 10_state.md R23: the states in the order of their codes. -/
def stateTable : List FlashState :=
  [.read, .unlock1, .unlock2, .autoselect, .byteProgram, .byteProgramError, .eraseUnlock1,
    .eraseUnlock2, .eraseSelect, .chipErase, .sectorErase, .sectorEraseTimeout, .sectorEraseSuspend]

theorem stateTable_stateCode (q : FlashState) : stateTable[(stateCode q).toNat]? = some q := by
  cases q <;> rfl

/-- A byte of the sector set holds the bits of its eight sectors. -/
theorem pendingBytes_getD (p : BitVec 64) {k : Nat} (hk : k < 8) :
    (pendingBytes p).getD k 0#8 = p.extractLsb' (8 * k) 8 := by
  interval_cases k <;> rfl

theorem getLsbD_pendingBytes (p : BitVec 64) {i : Nat} (hi : i < 64) :
    ((pendingBytes p).getD (i / 8) 0#8).getLsbD (i % 8) = p.getLsbD i := by
  rw [pendingBytes_getD p (by omega), BitVec.getLsbD_extractLsb', Nat.div_add_mod,
    decide_eq_true (by omega), Bool.true_and]

theorem snapshotBytes_length (f : FlashChip) (v : Variant) :
    (f.snapshotBytes v).length = 12 + v.size := by
  simp only [FlashChip.snapshotBytes, pendingBytes, List.length_cons, List.length_append,
    List.length_nil, readRange_length]
  omega

/-- Bytes 3 to 10 of a snapshot are the sector set. -/
theorem snapshotBytes_pending (f : FlashChip) (v : Variant) {k : Nat} (hk : k < 8) :
    (f.snapshotBytes v).getD (3 + k) 0#8 = (pendingBytes f.pending).getD k 0#8 := by
  interval_cases k <;> rfl

/-- The bytes from 12 on are the array. -/
theorem snapshotBytes_data (f : FlashChip) {v : Variant} {x : Nat} (hx : x < v.size) :
    (f.snapshotBytes v).getD (12 + x) 0#8 = f.data.read x := by
  have htail : (f.snapshotBytes v).getD (12 + x) 0#8 = (f.data.readRange 0 v.size).getD x 0#8 := by
    rw [Nat.add_comm]
    rfl
  rw [htail, readRange_getD _ _ _ _ hx, Nat.zero_add]

/-! ### The loads that are rejected -/

theorem stateOfCode_eq_none {b : Byte} (h : 12 < b.toNat) : stateOfCode b = none := by
  unfold stateOfCode
  split
  case h_14 => rfl
  all_goals omega

/-- No chip is loaded from bytes of another length or with a state code above 12. -/
theorem load_eq_none (f : FlashChip) {c : Config} (clk : Nat) {bytes : List Byte}
    (h : bytes.length ≠ 12 + c.variant.size ∨ 12 < (bytes.getD 0 0#8).toNat
      ∨ 12 < (bytes.getD 1 0#8).toNat) : f.load c clk bytes = none := by
  unfold FlashChip.load
  split
  · next st bs pb p0 p1 p2 p3 p4 p5 p6 p7 lr content =>
    split
    · next hlen =>
      rcases h with hlength | hstate | hbase
      · simp only [List.length_cons, hlen] at hlength
        omega
      · rw [stateOfCode_eq_none (b := st) hstate]
      · rw [stateOfCode_eq_none (b := bs) hbase]
        cases stateOfCode st <;> rfl
    · rfl
  · rfl

theorem snapshotLoad_rejected {s : State} {major : Nat} {bytes : List Byte}
    (h : major ≠ s.cfg.snapshotMajor ∨ bytes.length ≠ 12 + s.cfg.variant.size
      ∨ 12 < (bytes.getD 0 0#8).toNat ∨ 12 < (bytes.getD 1 0#8).toNat) :
    s.snapshotLoad major bytes = s.emit (.loaded false) := by
  unfold State.snapshotLoad
  rcases h with hmajor | hbytes
  · rw [if_neg hmajor]
  · rw [load_eq_none s.flash s.clk hbytes, ite_self]

/-- Settles O25: the bytes of a save field by field, and the tests a load makes before it changes anything. -/
theorem snapshotSaveAndRejection : Obligations.SnapshotSaveAndRejection := by
  rintro codes rfl
  refine ⟨fun s => ⟨s.flash.snapshotBytes s.cfg.variant, rfl, snapshotBytes_length _ _,
    stateTable_stateCode s.flash.seq, stateTable_stateCode s.flash.baseState, rfl, fun i hi => ?_,
    rfl, fun x hx => snapshotBytes_data s.flash hx⟩, fun s major bytes h => ?_⟩
  · rw [snapshotBytes_pending _ _ (by omega)]
    exact getLsbD_pendingBytes s.flash.pending hi
  · exact congrArg Host.Outcome.next (snapshotLoad_rejected h)

end Sys2Proof.Proofs

/-! The encoding (spec/30_encoding.md): what the decoder answers is the row whose encoding, position and
tests it was given, and it answers with every such row. -/

namespace Sys2Proof.Proofs

open Laws.UnitOfEngine (port)
open Machine Laws

/-- The position selects the row and the row's tests hold: the "in state", address and data columns of
30_encoding.md R111. -/
abbrev RowMet (c : Ctx) (i : Instr) : Prop := i.selectedIn c = true ∧ i.rowTest c.variant = true

/-! ## Each decoder answers with a row whose position and tests are met -/

theorem rowMet_decodeWrite (c : Ctx) (a : Nat) (b : Byte) :
    RowMet c (decodeWrite c.variant c.seq a b) := by
  cases hseq : c.seq with
  | byteProgram | chipErase => simp [decodeWrite, RowMet, Instr.selectedIn, Instr.rowTest, hseq]
  | _ =>
    simp only [decodeWrite]
    split_ifs <;> simp_all [RowMet, Instr.selectedIn, Instr.rowTest, or_iff_not_imp_left]

theorem rowMet_decodeRead (c : Ctx) (a : Nat) : RowMet c (decodeRead c.seq a) := by
  cases hseq : c.seq <;> simp [decodeRead, RowMet, Instr.selectedIn, Instr.rowTest, hseq]

theorem rowMet_of_decodeExpire {c : Ctx} {i : Instr} (h : decodeExpire c.seq = .ok i) : RowMet c i := by
  cases hseq : c.seq <;> rw [hseq] at h <;> cases h <;>
    simp [RowMet, Instr.selectedIn, Instr.rowTest, hseq]

theorem rowMet_of_decodeBits {c : Ctx} {bits : List Bool} {i : Instr} (h : decodeBits bits = .ok i) :
    RowMet c i := by
  unfold decodeBits at h
  simp only at h
  split_ifs at h <;> cases h <;> exact ⟨rfl, rfl⟩

theorem rowMet_decodeClock (c : Ctx) (v : Bool) : RowMet c (decodeClock c v) := by
  unfold decodeClock
  split
  · split_ifs <;> simp_all [RowMet, Instr.selectedIn, Instr.rowTest]
  · next hnone => simp [RowMet, Instr.selectedIn, Instr.rowTest, Bool.eq_false_of_not_eq_true hnone]

theorem rowMet_of_decodeBytes {c : Ctx} {bytes : List Byte} {i : Instr}
    (h : decodeBytes bytes = .ok i) : RowMet c i := by
  unfold decodeBytes at h
  split at h
  · simp only at h
    split_ifs at h <;> cases h <;> simp_all [RowMet, Instr.selectedIn, Instr.rowTest]
  · simp only at h
    split_ifs at h <;> cases h <;> exact ⟨rfl, rfl⟩
  · cases h

theorem rowMet_of_decodeCardByte {c : Ctx} {b : Byte} {i : Instr}
    (h : decodeCardByte c.card c.phase b = .ok i) : RowMet c i := by
  unfold decodeCardByte at h
  split at h
  case h_1 hcard | h_2 hcard =>
    split at h
    case h_1 hphase =>
      split_ifs at h
      cases h
      simp [RowMet, Instr.selectedIn, Instr.rowTest, hcard, hphase]
    case h_2 hphase | h_3 hphase =>
      cases h
      simp [RowMet, Instr.selectedIn, Instr.rowTest, hcard, hphase]
  all_goals cases h

theorem rowMet_decodeCardRead (c : Ctx) : RowMet c (decodeCardRead c.card) := by
  cases hcard : c.card <;> simp [decodeCardRead, RowMet, Instr.selectedIn, Instr.rowTest, hcard]

theorem rowMet_of_decode {c : Ctx} {op : Op} {i : Instr} (h : decode c op = .ok i) : RowMet c i := by
  cases op with
  | flRead a => cases h; exact rowMet_decodeRead c a
  | flWrite a b rmw =>
    cases h
    cases rmw
    · exact rowMet_decodeWrite c a b
    · exact ⟨rfl, rfl⟩
  | flExpire => exact rowMet_of_decodeExpire h
  | eeSelect v =>
    simp only [decode] at h
    split at h
    · cases h
    · next hchange =>
      cases h
      cases v <;> simp_all [RowMet, Instr.selectedIn, Instr.rowTest]
  | eeClock v => cases h; exact rowMet_decodeClock c v
  | eeFrame bits => exact rowMet_of_decodeBits h
  | sdWrite b => exact rowMet_of_decodeCardByte h
  | sdRead => cases h; exact rowMet_decodeCardRead c
  | sdFrame bytes => exact rowMet_of_decodeBytes h
  | flClearDirty => cases h
  | _ => cases h; exact ⟨rfl, rfl⟩

/-- Settles O51: the encoding is `encode_of_decode`, position and tests are `rowMet_of_decode`. -/
theorem decodeIsSound : Obligations.DecodeIsSound :=
  fun _ _ _ h => ⟨encode_of_decode h, rowMet_of_decode h⟩

/-! ## The frames of the EEPROM -/

/-- The operand a run of bits ends with is the low bits of its value. -/
theorem ofNat_bitsValue_append {k : Nat} (bits : List Bool) (x : BitVec k) :
    BitVec.ofNat k (bitsValue (bits ++ msbBits k x.toNat)) = x := by
  apply BitVec.eq_of_toNat_eq
  rw [BitVec.toNat_ofNat, bitsValue_append, msbBits_length, bitsValue_msbBits,
    Nat.mod_eq_of_lt x.isLt, Nat.mul_add_mod_self_right, Nat.mod_eq_of_lt x.isLt]

/-- What stands before that operand is the rest of the value. -/
theorem bitsValue_append_div {k : Nat} (bits : List Bool) (x : BitVec k) :
    bitsValue (bits ++ msbBits k x.toNat) / 2 ^ k = bitsValue bits := by
  rw [bitsValue_append, msbBits_length, bitsValue_msbBits, Nat.mod_eq_of_lt x.isLt, Nat.mul_comm,
    Nat.mul_add_div (Nat.two_pow_pos k), Nat.div_eq_of_lt x.isLt, Nat.add_zero]

theorem ne_zeroStart {bits : List Bool} (h : bits.length ≠ 1) : bits ≠ [false] :=
  fun heq => h (congrArg List.length heq)

/-- A frame of class and address, 13 bits: READ and ERASE. -/
theorem decodeBits_address (a : BitVec 10) :
    decodeBits (msbBits 3 6 ++ msbBits 10 a.toNat) = .ok (.eeRead a)
    ∧ decodeBits (msbBits 3 7 ++ msbBits 10 a.toNat) = .ok (.eeErase a) := by
  have hclass (c : Nat) :
      bitsValue (msbBits 3 c ++ msbBits 10 a.toNat) / 1024 = bitsValue (msbBits 3 c) :=
    bitsValue_append_div _ a
  constructor <;>
    simp [decodeBits, ne_zeroStart, hclass, ofNat_bitsValue_append, bitsValue_msbBits]

/-- A frame of a five-bit class and ignored bits: WDS, ERAL and WEN. -/
theorem decodeBits_ignored (x : BitVec 8) :
    decodeBits (msbBits 5 16 ++ msbBits 8 x.toNat) = .ok (.eeWds x)
    ∧ decodeBits (msbBits 5 18 ++ msbBits 8 x.toNat) = .ok (.eeEral x)
    ∧ decodeBits (msbBits 5 19 ++ msbBits 8 x.toNat) = .ok (.eeWen x) := by
  have hclass (c : Nat) :
      bitsValue (msbBits 5 c ++ msbBits 8 x.toNat) / 256 = bitsValue (msbBits 5 c) :=
    bitsValue_append_div _ x
  have hshort (n : Nat) : n / 1024 = n / 256 / 4 := (Nat.div_div_eq_div_mul n 256 4).symm
  refine ⟨?_, ?_, ?_⟩ <;>
    simp [decodeBits, ne_zeroStart, hshort, hclass, ofNat_bitsValue_append, bitsValue_msbBits]

/-- The frame of class, address and data word, 29 bits: WRITE. -/
theorem decodeBits_write (a : BitVec 10) (d : BitVec 16) :
    decodeBits (msbBits 3 5 ++ msbBits 10 a.toNat ++ msbBits 16 d.toNat) = .ok (.eeWrite a d) := by
  have hword (bits : List Bool) : bitsValue (bits ++ msbBits 16 d.toNat) / 65536 = bitsValue bits :=
    bitsValue_append_div bits d
  have hclass (c : Nat) :
      bitsValue (msbBits 3 c ++ msbBits 10 a.toNat) / 1024 = bitsValue (msbBits 3 c) :=
    bitsValue_append_div _ a
  have hlong (n : Nat) : n / 67108864 = n / 65536 / 1024 := (Nat.div_div_eq_div_mul n 65536 1024).symm
  simp [decodeBits, ne_zeroStart, hlong, hword, hclass, ofNat_bitsValue_append, bitsValue_msbBits,
    -List.append_assoc]

/-- The frame of class, ignored bits and data word: WRAL. -/
theorem decodeBits_wral (x : BitVec 8) (d : BitVec 16) :
    decodeBits (msbBits 5 17 ++ msbBits 8 x.toNat ++ msbBits 16 d.toNat) = .ok (.eeWral x d) := by
  have hword (bits : List Bool) : bitsValue (bits ++ msbBits 16 d.toNat) / 65536 = bitsValue bits :=
    bitsValue_append_div bits d
  have hclass (c : Nat) :
      bitsValue (msbBits 5 c ++ msbBits 8 x.toNat) / 256 = bitsValue (msbBits 5 c) :=
    bitsValue_append_div _ x
  have hlong (n : Nat) : n / 16777216 = n / 65536 / 256 := (Nat.div_div_eq_div_mul n 65536 256).symm
  have hlonger (n : Nat) : n / 67108864 = n / 16777216 / 4 := (Nat.div_div_eq_div_mul n 16777216 4).symm
  simp [decodeBits, ne_zeroStart, hlonger, hlong, hword, hclass, ofNat_bitsValue_append,
    bitsValue_msbBits, -List.append_assoc]

/-! ## The frames of the card -/

/-- The two trailing bytes assemble to the word they were cut from. -/
theorem highByte_append_lowByte (x : BitVec 16) : highByte x ++ lowByte x = x :=
  BitVec.extractLsb'_append_extractLsb'

/-! ## The encoding of a selected row is decoded to that row -/

/-- The FlashChip's rows: the state selects the branch of the decoder and the row's test the case in it,
a command row by its address test, an ignored or aborting cycle by the tests that fail before it. -/
theorem decode_encode_flash {c : Ctx} {i : Instr} (hport : port (encode i) = .flash)
    (hsel : i.selectedIn c = true) (htest : i.rowTest c.variant = true) :
    decode c (encode i) = .ok i := by
  cases i with
  | flUnlockA | flUnlockB | flAutoselect | flResetLong | flProgramSetup | flEraseSetup | flProgramData
  | flEraseUnlockA | flEraseUnlockB | flChipErase | flSectorErase | flSectorAdd | flEraseSuspend
  | flEraseResume | flIgnoreChiperase =>
    have hseq := eq_of_beq hsel
    simp only [Instr.rowTest] at htest
    simp [encode, decode, decodeWrite, hseq, htest]
  | flIgnoreRead | flAbortUnlock1 | flAbortUnlock2 | flAbortEraseunlock1 | flAbortEraseunlock2
  | flAbortEraseselect | flEraseCancel =>
    have hseq := eq_of_beq hsel
    simp_all [Instr.rowTest, encode, decode, decodeWrite, or_iff_not_imp_left]
  | flIgnoreSectorerase | flReunlock | flResetShort | flIgnoreErrorAutoselect =>
    simp only [Instr.selectedIn, Bool.or_eq_true] at hsel
    rcases hsel with hseq | hseq <;>
      simp_all [Instr.rowTest, encode, decode, decodeWrite, or_iff_not_imp_left]
  | flReadArray | flReadId | flReadPstatus | flReadEstatus =>
    cases hseq : c.seq <;> simp_all [Instr.selectedIn, encode, decode, decodeRead]
  | flExpireTimeout | flExpireSector | flExpireChip =>
    simp only [encode, decode, eq_of_beq hsel, decodeExpire]
  | flRmw | flPeek | flHwReset | flTick | flSnapshotSave | flSnapshotLoad => rfl
  | _ => cases hport

theorem decode_encode_eeprom {c : Ctx} {i : Instr} (hport : port (encode i) = .eeprom)
    (hsel : i.selectedIn c = true) : decode c (encode i) = .ok i := by
  cases i with
  | eeRead | eeErase => simp only [encode, decode, decodeBits_address]
  | eeWds | eeEral | eeWen => simp only [encode, decode, decodeBits_ignored]
  | eeWrite a d => exact decodeBits_write a d
  | eeWral x d => exact decodeBits_wral x d
  | eeCsRise | eeCsFall => simp [encode, decode, eq_of_beq hsel]
  | eeClk v =>
    by_cases hedge : (v && c.cs && !c.ck) = true <;>
      simp_all [Instr.selectedIn, encode, decode, decodeClock]
  | eeDummyEdge | eeStreamEdge => simp_all [Instr.selectedIn, encode, decode, decodeClock]
  | eeZeroStart | eeDi | eeDo | eeReset => rfl
  | _ => cases hport

theorem decode_encode_card {c : Ctx} {i : Instr} (hport : port (encode i) = .card)
    (hsel : i.selectedIn c = true) (htest : i.rowTest c.variant = true) :
    decode c (encode i) = .ok i := by
  cases i with
  | sdCmd0 | sdCmd1 | sdCmd12 | sdCmd17 | sdCmd24 | sdAcmd41 | sdCmd55 | sdCmd58 =>
    simp [encode, decode, decodeBytes, sdFrameBytes, argBytes, argOfBytes_argBytes]
  | sdUnknown =>
    simp_all [Instr.rowTest, knownCommands, encode, decode, decodeBytes, sdFrameBytes, argBytes,
      argOfBytes_argBytes]
  | sdCmd8 | sdCmd9 | sdCmd10 | sdCmd16 =>
    simp [encode, decode, decodeBytes, sdFrameBytes, sdTail, argBytes, argOfBytes_argBytes,
      highByte_append_lowByte]
  | sdWtoken | sdWdata | sdWcrc =>
    simp only [Instr.selectedIn, Bool.and_eq_true, Bool.or_eq_true, beq_iff_eq] at hsel
    obtain ⟨hcard | hcard, hphase⟩ := hsel <;> cases hp : c.phase <;>
      simp_all [encode, decode, decodeCardByte]
  | sdRxReturnwrite | sdRxReset | sdRxInit | sdRxStream | sdRxIdle =>
    cases hcard : c.card <;> simp_all [Instr.selectedIn, encode, decode, decodeCardRead]
  | sdReset => rfl
  | _ => cases hport

/-- Settles O50, interface by interface: the address below SIZE is not needed, the row's test is. -/
theorem decodeInvertsEncode : Obligations.DecodeInvertsEncode := by
  intro c i hwf hsel
  obtain ⟨-, htest⟩ := Bool.and_eq_true_iff.mp hwf
  cases hport : port (encode i) with
  | flash => exact decode_encode_flash hport hsel htest
  | eeprom => exact decode_encode_eeprom hport hsel
  | card => exact decode_encode_card hport hsel htest

/-! ## The step takes what the decoder answers -/

/-- Settles O48: taking an operation removes it from the list and leaves the decoder's context. -/
theorem stepRunsTheDecodedInstruction : Obligations.StepRunsTheDecodedInstruction := by
  intro s
  refine ⟨fun hin => ?_, fun op rest i hin hdecode => ?_, fun op rest r hin hdecode => ?_⟩
  · simp only [step, State.fetch, hin]
  · have hctx : decode ({ s with inputs := rest }).ctx op = .ok i := hdecode
    simp only [step, State.fetch, hin, hctx]
  · have hctx : decode ({ s with inputs := rest }).ctx op = .error r := hdecode
    simp only [step, State.fetch, hin, hctx]

/-- Settles O52: each unit is a closed term that the decoder evaluates. -/
theorem decodeExamples : Obligations.DecodeExamples := by
  unfold Obligations.DecodeExamples
  decide

end Sys2Proof.Proofs

/-! FlashChip write cycles (spec/40_flash_store.md): the row that each state takes from the address and the
byte, the data cycle of a program, and the read-modify-write cycle as two stores. -/

namespace Sys2Proof.Proofs

open Machine Laws

/-! ## A step is the operation of the interface -/

/-- Settles O49: a decoded row has the operation as its encoding and means what its encoding means; an
operation of no row is performed as it stands. -/
theorem stepPerformsTheOperation : Obligations.StepPerformsTheOperation := by
  intro s op rest hin
  obtain ⟨-, hrow, hnone⟩ := stepRunsTheDecodedInstruction s
  cases hdecode : decode s.ctx op with
  | ok i => rw [hrow op rest i hin hdecode, exec_eq_perform, encode_of_decode hdecode]
  | error r => exact hnone op rest r hin hdecode

/-! ## The row each state takes -/

section Store

variable {f : FlashChip} {c : Config} {clk a : Nat} {b : Byte}

theorem store_of_read (h : f.seq = .read) :
    f.store c clk a b = if isM1 c.variant a ∧ b = 0xAA#8 then f.goto .unlock1 else f := by
  simp only [FlashChip.store, h, FlashChip.unlockA, FlashChip.ignoreRead]

theorem store_of_unlock1 (h : f.seq = .unlock1) :
    f.store c clk a b = if isM2 c.variant a ∧ b = 0x55#8 then f.goto .unlock2 else f.gotoBase := by
  simp only [FlashChip.store, h, FlashChip.unlockB, FlashChip.abortUnlock1]

/-- After an unlock the byte selects the command (R145 to R148). -/
theorem store_of_unlock2 (h : f.seq = .unlock2) (hm : isM1 c.variant a = true) :
    f.store c clk a b =
      if b = 0x90#8 then f.autoselect
      else if b = 0xF0#8 then f.returnToRead
      else if b = 0xA0#8 then f.goto .byteProgram
      else if b = 0x80#8 then f.goto .eraseUnlock1
      else f.gotoBase := by
  simp only [FlashChip.store, h, hm, if_true, FlashChip.resetLong, FlashChip.programSetup,
    FlashChip.eraseSetup, FlashChip.abortUnlock2]

theorem store_of_unlock2_elsewhere (h : f.seq = .unlock2) (hm : isM1 c.variant a = false) :
    f.store c clk a b = f.gotoBase := by
  simp only [FlashChip.store, h, hm, Bool.false_eq_true, if_false, FlashChip.abortUnlock2]

theorem store_of_byteProgram (h : f.seq = .byteProgram) :
    f.store c clk a b = f.programData a b := by
  simp only [FlashChip.store, h]

theorem store_of_eraseUnlock1 (h : f.seq = .eraseUnlock1) :
    f.store c clk a b =
      if isM1 c.variant a ∧ b = 0xAA#8 then f.goto .eraseUnlock2 else f.gotoBase := by
  simp only [FlashChip.store, h, FlashChip.eraseUnlockA, FlashChip.abortEraseUnlock1]

theorem store_of_eraseUnlock2 (h : f.seq = .eraseUnlock2) :
    f.store c clk a b =
      if isM2 c.variant a ∧ b = 0x55#8 then f.goto .eraseSelect else f.gotoBase := by
  simp only [FlashChip.store, h, FlashChip.eraseUnlockB, FlashChip.abortEraseUnlock2]

theorem store_of_eraseSelect (h : f.seq = .eraseSelect) :
    f.store c clk a b =
      if isM1 c.variant a ∧ b = 0x10#8 then f.chipErase c clk
      else if b = 0x30#8 then f.sectorErase c clk a
      else f.gotoBase := by
  simp only [FlashChip.store, h, FlashChip.abortEraseSelect]

theorem store_of_sectorEraseTimeout (h : f.seq = .sectorEraseTimeout) :
    f.store c clk a b = if b = 0x30#8 then f.sectorAdd c a else f.eraseCancel := by
  simp only [FlashChip.store, h]

theorem store_of_sectorErase (h : f.seq = .sectorErase) :
    f.store c clk a b = if b = 0xB0#8 then f.eraseSuspend else f := by
  simp only [FlashChip.store, h, FlashChip.ignoreSectorErase]

theorem store_of_sectorEraseSuspend (h : f.seq = .sectorEraseSuspend) :
    f.store c clk a b = if b = 0x30#8 then f.eraseResume c clk else f := by
  simp only [FlashChip.store, h, FlashChip.ignoreSectorErase]

theorem store_of_chipErase (h : f.seq = .chipErase) : f.store c clk a b = f := by
  simp only [FlashChip.store, h, FlashChip.ignoreChipErase]

/-- `ByteProgramError` and `Autoselect` take the same cycles (R167 to R169). -/
theorem store_of_error_or_autoselect (h : f.seq = .byteProgramError ∨ f.seq = .autoselect) :
    f.store c clk a b =
      if isM1 c.variant a ∧ b = 0xAA#8 then f.goto .unlock1
      else if b = 0xF0#8 then f.returnToRead
      else f := by
  rcases h with h | h <;>
    simp only [FlashChip.store, h, FlashChip.reunlock, FlashChip.resetShort,
      FlashChip.ignoreErrorAutoselect]

end Store

/-! ## The write cycles that move the sequencer -/

/-- A write cycle inside the chip puts the stored-to chip into the state and leaves the rest. -/
theorem exec_of_store {i : Instr} {s : State} {a : Nat} {b : Byte} {f : FlashChip}
    (hop : encode i = .flWrite a b false) (ha : a < s.cfg.variant.size)
    (hstore : s.flash.store s.cfg s.clk a b = f) : exec i s = .next { s with flash := f } := by
  rw [exec_eq_perform, hop, ← hstore]
  exact storeCycle_of_lt ha b

/-- Settles O1: each unlock cycle is the branch of the store that its address test selects. -/
theorem unlockCycles : Obligations.UnlockCycles := by
  intro s a ha
  refine ⟨fun hseq hm => exec_of_store rfl ha ?_, fun hseq hm => exec_of_store rfl ha ?_,
    fun hseq hm => exec_of_store rfl ha ?_⟩
  · exact (store_of_read hseq).trans (if_pos ⟨hm, rfl⟩)
  · exact (store_of_unlock1 hseq).trans (if_pos ⟨hm, rfl⟩)
  · exact (store_of_error_or_autoselect hseq).trans (if_pos ⟨hm, rfl⟩)

/-- Settles O2: each set-up cycle is the branch of the store that its address and byte select. -/
theorem commandSetUpCycles : Obligations.CommandSetUpCycles := by
  intro s a ha
  refine ⟨fun hseq hm => ⟨exec_of_store rfl ha ?_, exec_of_store rfl ha ?_⟩,
    fun hseq hm => exec_of_store rfl ha ?_, fun hseq hm => exec_of_store rfl ha ?_⟩
  · exact store_of_unlock2 hseq hm
  · exact store_of_unlock2 hseq hm
  · exact (store_of_eraseUnlock1 hseq).trans (if_pos ⟨hm, rfl⟩)
  · exact (store_of_eraseUnlock2 hseq).trans (if_pos ⟨hm, rfl⟩)

/-- Settles O3: in `ByteProgramError` and `Autoselect` the reset byte differs from the unlock byte, so the
address does not matter. -/
theorem restingPointCommands : Obligations.RestingPointCommands := by
  intro s a ha
  refine ⟨fun hseq hm => ⟨exec_of_store rfl ha ?_, exec_of_store rfl ha ?_⟩,
    fun hseq => exec_of_store rfl ha ?_⟩
  · exact store_of_unlock2 hseq hm
  · exact store_of_unlock2 hseq hm
  · have hunlock : ¬(isM1 s.cfg.variant a = true ∧ 0xF0#8 = 0xAA#8) := fun h => nomatch h.2
    exact (store_of_error_or_autoselect hseq).trans ((if_neg hunlock).trans (if_pos rfl))

/-- Settles O4: the cycle fails the tests of every continuing row, so the store's last branch is left. -/
theorem sequenceAborts : Obligations.SequenceAborts := by
  intro s a b ha
  refine ⟨fun hseq hb => exec_of_store rfl ha ?_, fun hseq hb => exec_of_store rfl ha ?_,
    fun hseq hb => exec_of_store rfl ha ?_, fun hseq hsector hchip => exec_of_store rfl ha ?_⟩
  · exact (store_of_unlock1 hseq).trans (if_neg hb)
  · exact (store_of_eraseUnlock1 hseq).trans (if_neg hb)
  · exact (store_of_eraseUnlock2 hseq).trans (if_neg hb)
  · exact (store_of_eraseSelect hseq).trans ((if_neg hchip).trans (if_neg hsector))

/-- After an unlock, a wrong address or a byte that is no command falls back (R149). -/
theorem store_of_unlock2_untaken {f : FlashChip} {c : Config} {clk a : Nat} {b : Byte}
    (h : f.seq = .unlock2)
    (hb : isM1 c.variant a = false ∨ (b ≠ 0x90#8 ∧ b ≠ 0xF0#8 ∧ b ≠ 0xA0#8 ∧ b ≠ 0x80#8)) :
    f.store c clk a b = f.gotoBase := by
  cases hm : isM1 c.variant a with
  | false => exact store_of_unlock2_elsewhere h hm
  | true =>
    obtain ⟨hauto, hreset, hprogram, herase⟩ := hb.resolve_left (by simp [hm])
    rw [store_of_unlock2 h hm, if_neg hauto, if_neg hreset, if_neg hprogram, if_neg herase]

/-- Settles O5: the store falls back in `Unlock2` and is the identity where the cycle is ignored. -/
theorem untakenCycles : Obligations.UntakenCycles := by
  intro s a b ha
  refine ⟨fun hseq hb => exec_of_store rfl ha ?_, fun hseq hb => exec_of_store rfl ha ?_,
    fun herase => exec_of_store rfl ha ?_, fun hseq => exec_of_store rfl ha ?_,
    fun hseq hunlock hreset => exec_of_store rfl ha ?_⟩
  · exact store_of_unlock2_untaken hseq hb
  · exact (store_of_read hseq).trans (if_neg hb)
  · rcases herase with ⟨hseq, hb⟩ | ⟨hseq, hb⟩
    · exact (store_of_sectorErase hseq).trans (if_neg hb)
    · exact (store_of_sectorEraseSuspend hseq).trans (if_neg hb)
  · exact store_of_chipErase hseq
  · exact (store_of_error_or_autoselect hseq).trans ((if_neg hunlock).trans (if_neg hreset))

/-! ## Erase commands -/

/-- Settles O9: the byte 0x30 is not the chip erase's, so the sector erase is taken at every address. -/
theorem eraseCommands : Obligations.EraseCommands := by
  intro s a ha hseq
  refine ⟨fun hm => exec_of_store rfl ha ?_, exec_of_store rfl ha ?_⟩
  · exact (store_of_eraseSelect hseq).trans (if_pos ⟨hm, rfl⟩)
  · have hchip : ¬(isM1 s.cfg.variant a = true ∧ 0x30#8 = 0x10#8) := fun h => nomatch h.2
    exact (store_of_eraseSelect hseq).trans ((if_neg hchip).trans (if_pos rfl))

/-- Settles O10: the byte alone decides between the rows of these states. -/
theorem eraseQueueCommands : Obligations.EraseQueueCommands := by
  intro s a b ha
  refine ⟨fun hseq => exec_of_store rfl ha ?_, fun hseq hb => exec_of_store rfl ha ?_,
    fun hseq => exec_of_store rfl ha ?_⟩
  · exact (store_of_sectorEraseTimeout hseq).trans (if_pos rfl)
  · exact (store_of_sectorEraseTimeout hseq).trans (if_neg hb)
  · exact (store_of_sectorEraseSuspend hseq).trans (if_pos rfl)

/-- Settles O11: 0xB0 is the one byte a running sector erase takes. -/
theorem eraseSuspend : Obligations.EraseSuspend := by
  intro s a ha hseq
  exact exec_of_store rfl ha ((store_of_sectorErase hseq).trans (if_pos rfl))

/-! ## The data cycle of a program -/

/-- The data cycle as one update: the two exits differ in `state` alone (R150, R151). -/
theorem programData_eq (f : FlashChip) (a : Nat) (b : Byte) :
    f.programData a b = { f with
      data := f.data.write a (f.data.read a &&& b)
      programByte := b
      dirty := true
      seq := if f.data.read a &&& b = b then f.baseState else .byteProgramError } := by
  by_cases hstored : f.data.read a &&& b = b <;>
    simp [FlashChip.programData, programFails, hstored, FlashChip.gotoBase,
      FlashChip.enterProgramError, FlashChip.goto]

/-- Settles O6: the cycle is `programData_eq`, and the array it leaves is read back by `read_write`. -/
theorem programDataCycle : Obligations.ProgramDataCycle := by
  intro s a b hwf ha hseq
  have hsubmask := store_submask hwf s.cfg s.clk a b
  rw [store_of_byteProgram hseq, programData_data] at hsubmask
  exact ⟨s.flash.data.write a (s.flash.data.read a &&& b), write_wf hwf a _,
    fun x => read_write hwf a _ x, hsubmask,
    exec_of_store rfl ha ((store_of_byteProgram hseq).trans (programData_eq s.flash a b))⟩

/-! ## Read-modify-write -/

/-- Where a data cycle can end, a further store changes neither the array nor `program_byte`: the states
it can be in take only an unlock or a reset. -/
theorem store_data_programByte {f : FlashChip}
    (h : f.seq = .read ∨ f.seq = .byteProgramError ∨ f.seq = .autoselect)
    (c : Config) (clk a : Nat) (b : Byte) :
    (f.store c clk a b).data = f.data ∧ (f.store c clk a b).programByte = f.programByte := by
  rcases h with hread | hrest
  · rw [store_of_read hread]
    split <;> exact ⟨rfl, rfl⟩
  · rw [store_of_error_or_autoselect hrest]
    split_ifs <;> exact ⟨rfl, rfl⟩

/-- A data cycle ends at the resting point or in `ByteProgramError`. -/
theorem programData_seq_mem {f : FlashChip} (h : f.baseState = .read ∨ f.baseState = .autoselect)
    (a : Nat) (b : Byte) :
    (f.programData a b).seq = .read ∨ (f.programData a b).seq = .byteProgramError
      ∨ (f.programData a b).seq = .autoselect := by
  rw [programData_eq]
  simp only
  split
  · exact h.imp_right .inr
  · exact .inr (.inl rfl)

/-- Settles O12: both stores decode to their rows and leave the clock; in `ByteProgram` the first is the
data cycle, and the second meets a state that programs nothing. -/
theorem readModifyWriteCycle : Obligations.ReadModifyWriteCycle := by
  constructor
  · intro s a b ha
    have hglitch := exec_decodeWrite ha s.flash.lastRead
    have hreal := exec_decodeWrite (s := s.setFlash (s.flash.store s.cfg s.clk a s.flash.lastRead)) ha b
    exact ⟨_, _, hglitch, rfl, hreal, rmwCycle_of_lt ha b⟩
  · intro s a b ha hwf hseq hbase
    obtain ⟨hdata, hbyte⟩ := store_data_programByte
      (programData_seq_mem hbase a s.flash.lastRead) s.cfg s.clk a b
    refine ⟨_, rmwCycle_of_lt ha b, ?_, fun x => ?_⟩
    · rw [store_of_byteProgram hseq, setFlash_flash, hbyte, programData_programByte]
    · rw [store_of_byteProgram hseq, setFlash_flash, hdata, programData_data, read_write hwf]

end Sys2Proof.Proofs

/-! FlashChip read cycles (spec/41_flash_read.md): the value that each state returns, what the cycle leaves
behind, the low byte that autoselect tests, and the two status bytes bit by bit. -/

namespace Sys2Proof.Proofs

open Machine Laws

/-! ## The value each state returns -/

section Read

variable {f : FlashChip}

/-- The seven array states of decision D15. -/
theorem readValue_of_arrayState
    (h : f.seq ∈ [FlashState.read, .unlock1, .unlock2, .byteProgram, .eraseUnlock1, .eraseUnlock2,
      .eraseSelect]) (c : Config) (clk a : Nat) :
    f.readValue c clk a = f.data.read a := by
  cases hseq : f.seq with
  | read | unlock1 | unlock2 | byteProgram | eraseUnlock1 | eraseUnlock2 | eraseSelect =>
    simp only [FlashChip.readValue, hseq, FlashChip.arrayByte]
  | _ => simp [hseq] at h

theorem readValue_of_autoselect (h : f.seq = .autoselect) (c : Config) (clk a : Nat) :
    f.readValue c clk a = f.idByte c.variant a := by
  simp only [FlashChip.readValue, h]

theorem readValue_of_byteProgramError (h : f.seq = .byteProgramError) (c : Config) (clk a : Nat) :
    f.readValue c clk a = programStatus c clk f.programByte := by
  simp only [FlashChip.readValue, h]

theorem readValue_of_inErase (h : inErase f.seq = true) (c : Config) (clk a : Nat) :
    f.readValue c clk a = eraseStatus f.seq f.programByte := by
  cases hseq : f.seq with
  | chipErase | sectorErase | sectorEraseTimeout | sectorEraseSuspend =>
    simp only [FlashChip.readValue, hseq]
  | _ => simp [hseq, inErase] at h

end Read

/-- The states of an erase are the four whose reads toggle. -/
theorem inErase_iff_mem (q : FlashState) :
    inErase q = true ↔
      q ∈ [FlashState.chipErase, .sectorErase, .sectorEraseTimeout, .sectorEraseSuspend] := by
  cases q <;> decide

theorem inErase_eq_false_of_arrayState {q : FlashState}
    (h : q ∈ [FlashState.read, .unlock1, .unlock2, .byteProgram, .eraseUnlock1, .eraseUnlock2,
      .eraseSelect]) : inErase q = false := by
  cases q with
  | read | unlock1 | unlock2 | byteProgram | eraseUnlock1 | eraseUnlock2 | eraseSelect => rfl
  | _ => simp at h

/-! ## What a read cycle leaves behind -/

/-- A read cycle inside the chip latches and returns the state's value, and in an erase state flips the
toggle bits. -/
theorem exec_of_read {i : Instr} {s : State} {a : Nat} {v : Byte} (hop : encode i = .flRead a)
    (ha : a < s.cfg.variant.size) (hvalue : s.flash.readValue s.cfg s.clk a = v) :
    exec i s = .next { s with
      flash := { s.flash with
        lastRead := v
        programByte :=
          if inErase s.flash.seq then toggled s.cfg.variant s.flash.programByte
          else s.flash.programByte }
      outputs := s.outputs ++ [.byte v] } := by
  rw [exec_eq_perform, hop, ← hvalue]
  exact readCycle_of_lt ha

/-- Outside the erase states the latch is all that a read cycle changes in the chip. -/
theorem exec_of_read_outside_erase {i : Instr} {s : State} {a : Nat} {v : Byte}
    (hop : encode i = .flRead a) (ha : a < s.cfg.variant.size) (herase : inErase s.flash.seq = false)
    (hvalue : s.flash.readValue s.cfg s.clk a = v) :
    exec i s = .next { s with
      flash := { s.flash with lastRead := v }
      outputs := s.outputs ++ [.byte v] } := by
  rw [exec_of_read hop ha hvalue, herase]
  rfl

/-- Settles O16: the alias read looks at the array alone, whatever the state. -/
theorem aliasRead : Obligations.AliasRead := by
  intro s a ha
  rw [exec_eq_perform]
  exact atFlash_of_lt ha _

/-- Settles O13: in an array state the value is the stored byte; any read cycle that goes on leaves
`afterRead`, which writes the two latches alone. -/
theorem readCycles : Obligations.ReadCycles := by
  constructor
  · intro s a ha hseq
    exact exec_of_read_outside_erase rfl ha (inErase_eq_false_of_arrayState hseq)
      (readValue_of_arrayState hseq s.cfg s.clk a)
  · intro i a s t hop hexec
    obtain ⟨-, rfl⟩ := exec_next hexec
    rw [hop]
    refine ⟨rfl, fun herase => ?_⟩
    simp only [after, emit_flash, setFlash_flash, afterRead_eq, herase, Bool.false_eq_true, if_false]

/-! ## Autoselect -/

/-- The remap keeps every address bit but the two low ones, which go through the table (R182). -/
theorem eq_autoselectAddr {v : Variant} {a a' : Nat} (hplain : v.a01Swap = false → a' = a)
    (hswap : v.a01Swap = true →
      a' / 4 = a / 4 ∧ a' % 4 = (v.swap[a % 4]'(Nat.mod_lt a (by decide))).toNat) :
    a' = autoselectAddr v a := by
  unfold autoselectAddr
  split
  · next h =>
    obtain ⟨hhigh, hlow⟩ := hswap h
    rw [← hhigh, ← hlow, Nat.div_add_mod']
  · next h => exact hplain (Bool.eq_false_of_not_eq_true h)

/-- The tests on the low byte, as tests on the remapped address (R183). -/
theorem autoselectLow_eq_iff (v : Variant) (a : Nat) (b : Byte) :
    autoselectLow v a = b ↔ autoselectAddr v a % 256 = b.toNat := by
  rw [autoselectLow, ← BitVec.toNat_inj, BitVec.toNat_ofNat]

/-- The value of an autoselect read, by the low byte of the remapped address (R183, R184). -/
theorem idByte_eq (f : FlashChip) (v : Variant) (a : Nat) :
    f.idByte v a =
      if autoselectAddr v a % 256 = 0 then v.manufacturerId
      else if autoselectAddr v a % 256 = v.deviceIdAddr.toNat then v.deviceId
      else if autoselectAddr v a % 256 = 2 then 0x00#8
      else f.data.read a := by
  simp only [FlashChip.idByte, autoselectLow_eq_iff, BitVec.toNat_ofNat, Nat.reducePow, Nat.reduceMod]

/-- Settles O14: the given `a'` is the remapped address, and each clause selects one branch of
`idByte_eq`. -/
theorem autoselectRead : Obligations.AutoselectRead := by
  intro s a a' ha hseq hplain hswap
  have hid := idByte_eq s.flash s.cfg.variant a
  rw [← eq_autoselectAddr hplain hswap] at hid
  refine ⟨s.flash.idByte s.cfg.variant a,
    exec_of_read_outside_erase rfl ha (by rw [hseq]; rfl) (readValue_of_autoselect hseq s.cfg s.clk a),
    fun hzero => ?_, fun hzero hdevice => ?_, fun htwo hdevice => ?_, fun hzero htwo hdevice => ?_⟩
  · rw [hid, if_pos hzero]
  · rw [hid, if_neg hzero, if_pos hdevice]
  · have hzero : a' % 256 ≠ 0 := by omega
    rw [hid, if_neg hzero, if_neg hdevice, if_pos htwo]
  · rw [hid, if_neg hzero, if_neg hdevice, if_neg htwo]

/-! ## Status -/

/-- A byte with one bit set. -/
theorem getLsbD_twoPow_byte {k : Nat} (hk : k < 8) (i : Nat) :
    (BitVec.twoPow 8 k).getLsbD i = decide (i = k) := by
  simp only [BitVec.getLsbD_twoPow, hk, decide_true, Bool.true_and, eq_comm]

/-- DQ7 stands alone in its byte. -/
theorem getLsbD_programDq7 (p : Byte) (i : Nat) :
    (programDq7 p).getLsbD i = (decide (i = 7) && !p.getLsbD 7) := by
  rw [programDq7, show 0x80#8 = BitVec.twoPow 8 7 from rfl, BitVec.getLsbD_and, BitVec.getLsbD_xor,
    getLsbD_twoPow_byte (by decide)]
  by_cases hi : i = 7
  · simp only [hi, decide_true, Bool.xor_true, Bool.and_true, Bool.true_and]
  · simp only [hi, decide_false, Bool.and_false, Bool.false_and]

/-- DQ6 stands alone in its byte. -/
theorem getLsbD_programDq6 (bit clk i : Nat) :
    (programDq6 bit clk).getLsbD i = (decide (i = 6) && clk.testBit bit) := by
  have hbit : (clk >>> bit) &&& 1 = (clk.testBit bit).toNat := by
    rw [Nat.toNat_testBit, Nat.and_one_is_mod, Nat.shiftRight_eq_div_pow]
  rw [programDq6, hbit]
  cases clk.testBit bit with
  | false => simp
  | true => exact (getLsbD_twoPow_byte (by decide) i).trans (Bool.and_true _).symm

/-- The three parts of the program status lie side by side (R186). -/
theorem getLsbD_programStatus (c : Config) (clk : Nat) (p : Byte) (i : Nat) :
    (programStatus c clk p).getLsbD i =
      (decide (i = 7) && !p.getLsbD 7 || decide (i = 6) && clk.testBit c.dq6ClkBit
        || c.progStatusExtra.getLsbD i) := by
  have hextra : (c.progStatusExtra.zeroExtend 8).getLsbD i = c.progStatusExtra.getLsbD i := by
    simpa using fun h => Nat.lt_trans (BitVec.lt_of_getLsbD h) (by decide : 6 < 8)
  rw [programStatus, BitVec.getLsbD_or, BitVec.getLsbD_or, getLsbD_programDq7, getLsbD_programDq6,
    hextra]

/-- DQ3 is set unless the short timeout runs (R187). -/
theorem getLsbD_eraseStatus {q : FlashState} (h : q ≠ .sectorEraseTimeout) (p : Byte) (i : Nat) :
    (eraseStatus q p).getLsbD i = (p.getLsbD i || decide (i = 3)) := by
  rw [eraseStatus, if_neg h, BitVec.getLsbD_or, show 0x08#8 = BitVec.twoPow 8 3 from rfl,
    getLsbD_twoPow_byte (by decide)]

/-- Settles O15: each value is the state's status byte, read off bit by bit; only the erase states toggle
`program_byte`. -/
theorem statusReads : Obligations.StatusReads := by
  constructor
  · intro s a ha hseq
    refine ⟨programStatus s.cfg s.clk s.flash.programByte,
      exec_of_read_outside_erase rfl ha (by rw [hseq]; rfl)
        (readValue_of_byteProgramError hseq s.cfg s.clk a), ?_, ?_, fun i hi => ?_⟩
    · rw [getLsbD_programStatus, BitVec.getLsbD_of_ge s.cfg.progStatusExtra 7 (by decide)]
      simp
    · rw [getLsbD_programStatus, BitVec.getLsbD_of_ge s.cfg.progStatusExtra 6 (by decide)]
      simp
    · have hdq7 : i ≠ 7 := by omega
      have hdq6 : i ≠ 6 := by omega
      simp [getLsbD_programStatus, hdq7, hdq6]
  · intro s a ha hseq
    have herase := (inErase_iff_mem s.flash.seq).mpr hseq
    refine ⟨eraseStatus s.flash.seq s.flash.programByte, ?_, fun htimeout => if_pos htimeout,
      fun hrunning => ⟨?_, fun i hi => ?_⟩⟩
    · rw [exec_of_read rfl ha (readValue_of_inErase herase s.cfg s.clk a), herase]
      rfl
    · simp [getLsbD_eraseStatus hrunning]
    · simp [getLsbD_eraseStatus hrunning, hi]

end Sys2Proof.Proofs

/-! The FlashChip's erase timer (spec/42_flash_erase_timer.md): what an expiry does in each state, and the run
of ticks from the arming of a timer to its expiry, once for a chip erase and once for every queued sector. -/

namespace Sys2Proof.Proofs

open Machine Laws

/-! ## The expiry in each state -/

section Expiry

variable {f : FlashChip}

theorem expire_of_sectorEraseTimeout (h : f.seq = .sectorEraseTimeout) (c : Config) (clk : Nat) :
    f.expire c clk =
      { f with seq := .sectorErase, eraseTimer := some (clk + c.tSectorErase) } := by
  simp only [FlashChip.expire, h]
  rfl

theorem expire_of_chipErase (h : f.seq = .chipErase) (c : Config) (clk : Nat) :
    f.expire c clk = { f with
      data := f.data.erase 0 c.variant.size
      dirty := true
      seq := f.baseState
      eraseTimer := none } := by
  simp only [FlashChip.expire, h]
  rfl

/-- Outside the timed states the handler only clears the timer (R206). -/
theorem expire_of_untimed (h : timed f.seq = false) (c : Config) (clk : Nat) :
    f.expire c clk = { f with eraseTimer := none } := by
  rcases expire_cases f c clk with ⟨hseq, -⟩ | ⟨hseq, -⟩ | ⟨hseq, -⟩ | ⟨-, hexpire⟩
  · simp [hseq, timed] at h
  · simp [hseq, timed] at h
  · simp [hseq, timed] at h
  · exact hexpire

theorem expire_of_sectorErase (h : f.seq = .sectorErase) (c : Config) (clk : Nat) :
    f.expire c clk = f.cancel.expireSector c clk := by
  simp only [FlashChip.expire, h]

/-- With an empty queue the chip comes to rest and nothing is filled (R204). -/
theorem expire_of_empty_queue (h : f.seq = .sectorErase) (hempty : f.pending = 0#64) (c : Config)
    (clk : Nat) : f.expire c clk = { f with seq := f.baseState, eraseTimer := none } := by
  have hnone : lowestSector f.cancel.pending = none := lowestSector_eq_none.mpr hempty
  rw [expire_of_sectorErase h, FlashChip.expireSector, hnone]
  rfl

/-- With a lowest queued sector `k` it is popped, and filled when the chip has it; the next one is timed, or
the chip comes to rest (R204). -/
theorem expire_of_lowest {k : Nat} (h : f.seq = .sectorErase) (hlow : lowestSector f.pending = some k)
    (c : Config) (clk : Nat) :
    f.expire c clk = { f with
      data := if k <<< c.variant.sectorShift < c.variant.size
        then f.data.erase (k <<< c.variant.sectorShift) c.variant.sectorSize else f.data
      dirty := if k <<< c.variant.sectorShift < c.variant.size then true else f.dirty
      pending := dropSector f.pending k
      seq := if dropSector f.pending k = 0#64 then f.baseState else .sectorErase
      eraseTimer := if dropSector f.pending k = 0#64 then none
        else some (clk + c.tSectorErase) } := by
  rw [expire_of_sectorErase h]
  rcases expireSector_cases f.cancel c clk with ⟨hempty, -⟩ | ⟨i, hi, hexpire⟩
  · cases hlow.symm.trans (lowestSector_eq_none.mpr hempty)
  · obtain rfl : k = i := Option.some.inj (hlow.symm.trans hi)
    rw [hexpire, ← h]
    rfl

theorem expire_of_lowest_inside {k : Nat} (h : f.seq = .sectorErase)
    (hlow : lowestSector f.pending = some k) {c : Config}
    (hk : k <<< c.variant.sectorShift < c.variant.size) (clk : Nat) :
    f.expire c clk = { f with
      data := f.data.erase (k <<< c.variant.sectorShift) c.variant.sectorSize
      dirty := true
      pending := dropSector f.pending k
      seq := if dropSector f.pending k = 0#64 then f.baseState else .sectorErase
      eraseTimer := if dropSector f.pending k = 0#64 then none
        else some (clk + c.tSectorErase) } := by
  rw [expire_of_lowest h hlow, if_pos hk, if_pos hk]

theorem expire_of_lowest_beyond {k : Nat} (h : f.seq = .sectorErase)
    (hlow : lowestSector f.pending = some k) {c : Config}
    (hk : c.variant.size ≤ k <<< c.variant.sectorShift) (clk : Nat) :
    f.expire c clk = { f with
      pending := dropSector f.pending k
      seq := if dropSector f.pending k = 0#64 then f.baseState else .sectorErase
      eraseTimer := if dropSector f.pending k = 0#64 then none
        else some (clk + c.tSectorErase) } := by
  rw [expire_of_lowest h hlow, if_neg (Nat.not_lt.mpr hk), if_neg (Nat.not_lt.mpr hk)]

end Expiry

/-! ## The tick and the expiry rows as instructions -/

theorem exec_tick_of_ne {s : State} (h : s.flash.eraseTimer ≠ some (s.clk + 1)) :
    exec .flTick s = .next { s with clk := s.clk + 1 } :=
  congrArg Host.Outcome.next (tick_of_ne h)

theorem exec_tick_of_eq {s : State} {f : FlashChip} (h : s.flash.eraseTimer = some (s.clk + 1))
    (hexpire : s.flash.expire s.cfg (s.clk + 1) = f) :
    exec .flTick s = .next { s with clk := s.clk + 1, flash := f } := by
  subst hexpire
  exact congrArg Host.Outcome.next (tick_of_eq h)

theorem exec_expiry_of_due {i : Instr} {s : State} {t : Nat} {f : FlashChip}
    (hop : encode i = .flExpire) (h : s.flash.eraseTimer = some t) (ht : t ≤ s.clk)
    (hexpire : s.flash.expire s.cfg s.clk = f) : exec i s = .next { s with flash := f } := by
  subst hexpire
  rw [exec_eq_perform, hop]
  exact congrArg Host.Outcome.next (expireStep_of_due h ht)

theorem exec_expiry_of_not_due {i : Instr} {s : State} (hop : encode i = .flExpire)
    (h : ∀ t, s.flash.eraseTimer = some t → s.clk < t) : exec i s = .next s := by
  have hdue : s.flash.due s.clk = false := by
    unfold FlashChip.due
    split
    · rfl
    · next t ht => exact decide_eq_false (Nat.not_le.mpr (h t ht))
  rw [exec_eq_perform, hop]
  exact congrArg Host.Outcome.next (expireStep_of_not_due hdue)

/-- Settles O19: the two cases of a tick, and the expiry of the short timeout. -/
theorem tickAndShortTimeout : Obligations.TickAndShortTimeout := by
  intro s
  refine ⟨exec_tick_of_ne, fun hseq htimer => ?_, fun t hseq htimer ht => ?_⟩
  · exact exec_tick_of_eq htimer (expire_of_sectorEraseTimeout hseq s.cfg (s.clk + 1))
  · exact exec_expiry_of_due rfl htimer ht (expire_of_sectorEraseTimeout hseq s.cfg s.clk)

/-- Settles O20: the array and the queue are those of `expire_of_lowest_inside`, at either clock value. -/
theorem sectorExpiry : Obligations.SectorExpiry := by
  intro s k hwf hseq hk hbit hlower hinside
  have hlow := lowestSector_eq_some.mpr ⟨hk, hbit, hlower⟩
  refine ⟨s.flash.data.erase (k <<< s.cfg.variant.sectorShift) s.cfg.variant.sectorSize,
    dropSector s.flash.pending k, erase_wf hwf _ _, fun x => read_erase _ _ _ x,
    fun j => getLsbD_dropSector s.flash.pending k j, fun htimer => ?_, fun t htimer ht => ?_⟩
  · exact exec_tick_of_eq htimer (expire_of_lowest_inside hseq hlow hinside (s.clk + 1))
  · exact exec_expiry_of_due rfl htimer ht (expire_of_lowest_inside hseq hlow hinside s.clk)

/-- A chip filled from address 0 reads 0xFF at each of its addresses. -/
theorem read_erase_zero (m : Memory) (size x : Nat) :
    (m.erase 0 size).read x = if x < size then 0xFF#8 else m.read x := by
  simp [read_erase, Memory.unlisted]

/-- Settles O21: the handler's one fill is of the whole chip. -/
theorem chipExpiry : Obligations.ChipExpiry := by
  intro s hwf hseq
  refine ⟨s.flash.data.erase 0 s.cfg.variant.size, erase_wf hwf _ _, read_erase_zero _ _,
    fun htimer => ?_, fun t htimer ht => ?_⟩
  · exact exec_tick_of_eq htimer (expire_of_chipErase hseq s.cfg (s.clk + 1))
  · exact exec_expiry_of_due rfl htimer ht (expire_of_chipErase hseq s.cfg s.clk)

/-- Settles O22: the branches of the handler that no armed timer reaches, and a timer that is not due. -/
theorem oddExpiries : Obligations.OddExpiries := by
  refine ⟨fun s huntimed htimer => ?_, fun s t hseq hempty htimer ht => ?_,
    fun s t k hseq htimer ht hk hbit hlower hbeyond => ?_, fun s i hi hlater => ?_⟩
  · exact exec_tick_of_eq htimer (expire_of_untimed huntimed s.cfg (s.clk + 1))
  · exact exec_expiry_of_due rfl htimer ht (expire_of_empty_queue hseq hempty s.cfg s.clk)
  · have hlow := lowestSector_eq_some.mpr ⟨hk, hbit, hlower⟩
    exact ⟨dropSector s.flash.pending k, getLsbD_dropSector s.flash.pending k,
      exec_expiry_of_due rfl htimer ht (expire_of_lowest_beyond hseq hlow hbeyond s.clk)⟩
  · have hop : encode i = .flExpire := by
      simp only [List.mem_cons, List.not_mem_nil, or_false] at hi
      rcases hi with rfl | rfl | rfl <;> rfl
    exact exec_expiry_of_not_due hop hlater

/-! ## Runs of ticks -/

/-- A run that goes on is continued from where it is. -/
theorem core_run_add {s t : State} {m : Nat} (h : Host.Core.run Sys2Proof.core m s = .next t)
    (n : Nat) :
    Host.Core.run Sys2Proof.core (m + n) s = Host.Core.run Sys2Proof.core n t := by
  induction m generalizing s with
  | zero =>
    cases h
    rw [Nat.zero_add]
  | succ m ih =>
    cases hstep : step s with
    | next u =>
      rw [core_run_succ hstep] at h
      rw [Nat.succ_add, core_run_succ hstep, ih h]
    | fault r => nomatch r
    | refused r =>
      have hcore : Sys2Proof.core.step s = .refused r := hstep
      simp only [Host.Core.run, hcore] at h
      cases h

/-- A pending tick is taken first. -/
theorem core_run_tick {s t : State} {rest : List Op} (h : s.inputs = .flTick :: rest)
    (ht : { s with inputs := rest }.tick = t) (n : Nat) :
    Host.Core.run Sys2Proof.core (n + 1) s = Host.Core.run Sys2Proof.core n t :=
  core_run_succ ((stepPerformsTheOperation s .flTick rest h).trans (congrArg Host.Outcome.next ht)) n

/-- Ticks short of the timer's target only count (R200). -/
theorem core_run_ticks_before {s : State} {m d : Nat} {rest : List Op} (hm : m < d)
    (htimer : s.flash.eraseTimer = some (s.clk + d))
    (hin : s.inputs = List.replicate m .flTick ++ rest) :
    Host.Core.run Sys2Proof.core m s = .next { s with clk := s.clk + m, inputs := rest } := by
  induction m generalizing s d with
  | zero =>
    rw [List.replicate_zero, List.nil_append] at hin
    subst hin
    rfl
  | succ m ih =>
    have hne : s.flash.eraseTimer ≠ some (s.clk + 1) := by
      rw [htimer]
      intro heq
      have := Option.some.inj heq
      omega
    have htarget : s.clk + d = s.clk + 1 + (d - 1) := by omega
    rw [List.replicate_succ, List.cons_append] at hin
    rw [core_run_tick hin (tick_of_ne hne), ih (d := d - 1) (by omega) (htarget ▸ htimer) rfl,
      Nat.add_assoc, Nat.add_comm 1 m]

/-- The ticks that bring the counter to the timer's target end in its handler (R202, decision D13). -/
theorem core_run_ticks_expire {s : State} {d : Nat} {rest : List Op} (hd : 1 ≤ d)
    (htimer : s.flash.eraseTimer = some (s.clk + d))
    (hin : s.inputs = List.replicate d .flTick ++ rest) :
    Host.Core.run Sys2Proof.core d s = .next { s with
      clk := s.clk + d, inputs := rest, flash := s.flash.expire s.cfg (s.clk + d) } := by
  obtain ⟨m, rfl⟩ := Nat.exists_eq_add_of_le' hd
  rw [List.replicate_add, List.append_assoc] at hin
  exact (core_run_add (core_run_ticks_before (Nat.lt_succ_self m) htimer hin) 1).trans
    (core_run_tick rfl (tick_of_eq htimer) 0)

/-! ## Chip erase -/

/-- Settles O23: before the target the ticks only count; the last one runs the handler, which fills the
chip. -/
theorem chipEraseEnds : Obligations.ChipEraseEnds := by
  intro s n rest hseq htimer hin
  constructor
  · intro m hm
    obtain ⟨k, hk⟩ : ∃ k, n + 1 = m + k := Nat.exists_eq_add_of_le (Nat.le_succ_of_le hm)
    rw [hk, List.replicate_add, List.append_assoc] at hin
    exact ⟨_, core_run_ticks_before (Nat.lt_succ_of_le hm) htimer hin, rfl⟩
  · refine ⟨_, core_run_ticks_expire (Nat.le_add_left 1 n) htimer hin, ?_⟩
    rw [expire_of_chipErase hseq]
    exact ⟨rfl, rfl, rfl, rfl, rfl, fun x hx => (read_erase_zero _ _ x).trans (if_pos hx)⟩

/-! ## Sector erase -/

/-- The number of queued sectors. -/
def queueCount (pending : BitVec 64) : Nat := (List.range 64).countP fun i => pending.getLsbD i

theorem queueCount_eq_zero {p : BitVec 64} : queueCount p = 0 ↔ p = 0#64 := by
  rw [← lowestSector_eq_none, queueCount, lowestSector, List.countP_eq_zero, List.find?_eq_none]

theorem queueCount_eq_card (p : BitVec 64) :
    queueCount p = ((Finset.range 64).filter fun i => p.getLsbD i = true).card := by
  rw [← Nat.count_eq_card_filter_range]
  simp [queueCount, Nat.count]

/-- Popping a queued sector leaves one fewer. -/
theorem queueCount_dropSector {p : BitVec 64} {k : Nat} (hk : k < 64) (hbit : p.getLsbD k = true) :
    queueCount (dropSector p k) + 1 = queueCount p := by
  have herase : ((Finset.range 64).filter fun i => (dropSector p k).getLsbD i = true)
      = ((Finset.range 64).filter fun i => p.getLsbD i = true).erase k := by
    ext i
    simp only [getLsbD_dropSector, Finset.mem_filter, Finset.mem_erase, Bool.and_eq_true,
      decide_eq_true_eq]
    tauto
  rw [queueCount_eq_card, queueCount_eq_card, herase]
  exact Finset.card_erase_add_one (Finset.mem_filter.mpr ⟨Finset.mem_range.mpr hk, hbit⟩)

/-- A sector of the chip begins inside it, and its bytes are the addresses whose quotient it is. -/
theorem sector_range {v : Variant} (h : v.wf = true) {k : Nat} (hk : k < v.size / v.sectorSize) :
    k <<< v.sectorShift < v.size
    ∧ ∀ x, (k <<< v.sectorShift ≤ x ∧ x < k <<< v.sectorShift + v.sectorSize)
        ↔ x / v.sectorSize = k := by
  obtain ⟨n, -, hsector, hsize, -⟩ := variant_wf_geometry h
  have hmul : (v.size / v.sectorSize) * v.sectorSize = v.size := by
    rw [hsector, hsize, Nat.mul_div_cancel _ (Nat.two_pow_pos _)]
  rw [Nat.shiftLeft_eq, ← hsector]
  refine ⟨hmul ▸ Nat.mul_lt_mul_of_pos_right hk (sectorSize_pos h), fun x => ?_⟩
  rw [Nat.div_eq_iff (sectorSize_pos h)]
  have := sectorSize_pos h
  omega

/-- A sector erase of `n` sectors whose timer has just been armed, with exactly its ticks pending before
`rest`. -/
structure SectorEraseArmed (s : State) (n : Nat) (rest : List Op) : Prop where
  cfg : s.cfg.wf = true
  seq : s.flash.seq = .sectorErase
  timer : s.flash.eraseTimer = some (s.clk + s.cfg.tSectorErase)
  sectors : ∀ i < 64, s.flash.pending.getLsbD i = true → i < s.cfg.variant.size / s.cfg.variant.sectorSize
  count : queueCount s.flash.pending = n
  inputs : s.inputs = List.replicate (n * s.cfg.tSectorErase) .flTick ++ rest

/-- What is left in `t` of a sector erase begun in `s`: the chip at its resting point, the queued sectors
erased, every other byte as it was. -/
structure QueueErased (s t : State) (rest : List Op) : Prop where
  seq : t.flash.seq = s.flash.baseState
  timer : t.flash.eraseTimer = none
  pending : t.flash.pending = 0#64
  inputs : t.inputs = rest
  read : ∀ x < s.cfg.variant.size, t.flash.data.read x =
    if s.flash.pending.getLsbD (x / s.cfg.variant.sectorSize) then 0xFF#8 else s.flash.data.read x

/-- The state in which `s` leaves its lowest queued sector `k` erased, with `rest` pending. -/
def sectorPopped (s : State) (k : Nat) (rest : List Op) : State :=
  { s with
    clk := s.clk + s.cfg.tSectorErase
    inputs := rest
    flash := { s.flash with
      data := s.flash.data.erase (k <<< s.cfg.variant.sectorShift) s.cfg.variant.sectorSize
      dirty := true
      pending := dropSector s.flash.pending k
      seq := if dropSector s.flash.pending k = 0#64 then s.flash.baseState else .sectorErase
      eraseTimer := if dropSector s.flash.pending k = 0#64 then none
        else some (s.clk + s.cfg.tSectorErase + s.cfg.tSectorErase) } }

section SectorPopped

variable {s : State} {n k : Nat} {rest : List Op}

/-- An erase with a sector left pops the lowest one after `T_SECTOR_ERASE` ticks (R204). -/
theorem core_run_sectorPopped (h : SectorEraseArmed s (n + 1) rest) :
    ∃ k < s.cfg.variant.size / s.cfg.variant.sectorSize,
      k < 64 ∧ s.flash.pending.getLsbD k = true
      ∧ Host.Core.run Sys2Proof.core s.cfg.tSectorErase s = .next (sectorPopped s k
          (List.replicate (n * s.cfg.tSectorErase) .flTick ++ rest)) := by
  obtain ⟨hvariant, -, hduration, -⟩ := config_wf_parts h.cfg
  have hne : s.flash.pending ≠ 0#64 := fun hzero => by
    have := (queueCount_eq_zero.mpr hzero).symm.trans h.count
    omega
  obtain ⟨k, hlow⟩ := Option.ne_none_iff_exists'.mp (mt lowestSector_eq_none.mp hne)
  obtain ⟨hk, hbit, -⟩ := lowestSector_eq_some.mp hlow
  have hsector := h.sectors k hk hbit
  have hin := h.inputs
  rw [Nat.succ_mul, Nat.add_comm, List.replicate_add, List.append_assoc] at hin
  refine ⟨k, hsector, hk, hbit, ?_⟩
  rw [core_run_ticks_expire hduration h.timer hin,
    expire_of_lowest_inside h.seq hlow (sector_range hvariant hsector).1]
  rfl

/-- With sectors left, their erase is armed. -/
theorem sectorPopped_armed (h : SectorEraseArmed s (n + 1) rest) (hn : n ≠ 0) (hk : k < 64)
    (hbit : s.flash.pending.getLsbD k = true) :
    SectorEraseArmed (sectorPopped s k (List.replicate (n * s.cfg.tSectorErase) .flTick ++ rest)) n
      rest := by
  have hcount : queueCount (dropSector s.flash.pending k) = n := by
    have := queueCount_dropSector hk hbit
    have := h.count
    omega
  have hne : dropSector s.flash.pending k ≠ 0#64 := fun hzero =>
    hn (hcount.symm.trans (queueCount_eq_zero.mpr hzero))
  refine ⟨h.cfg, if_neg hne, if_neg hne, fun i hi hqueued => h.sectors i hi ?_, hcount, rfl⟩
  have hdrop := (getLsbD_dropSector s.flash.pending k i).symm.trans hqueued
  exact (Bool.and_eq_true_iff.mp hdrop).1

/-- After the pop exactly the sector's bytes read 0xFF and the rest as before. -/
theorem sectorPopped_read (hvariant : s.cfg.variant.wf = true)
    (hk : k < s.cfg.variant.size / s.cfg.variant.sectorSize) (x : Nat) :
    (sectorPopped s k rest).flash.data.read x =
      if x / s.cfg.variant.sectorSize = k then 0xFF#8 else s.flash.data.read x :=
  (read_erase _ _ _ x).trans (if_congr ((sector_range hvariant hk).2 x) rfl rfl)

/-- What is left after the sectors behind the popped one are erased is what is left of the whole queue. -/
theorem queueErased_of_popped {t : State} {rest' : List Op} (hvariant : s.cfg.variant.wf = true)
    (hk : k < s.cfg.variant.size / s.cfg.variant.sectorSize)
    (hbit : s.flash.pending.getLsbD k = true)
    (h : QueueErased (sectorPopped s k rest') t rest) : QueueErased s t rest := by
  refine ⟨h.seq, h.timer, h.pending, h.inputs, fun x hx => ?_⟩
  rw [h.read x hx, sectorPopped_read hvariant hk]
  simp only [sectorPopped, getLsbD_dropSector]
  by_cases hxk : x / s.cfg.variant.sectorSize = k
  · simp [hxk, hbit]
  · simp [hxk]

/-- After the last pop the queue is erased. -/
theorem queueErased_sectorPopped (hvariant : s.cfg.variant.wf = true)
    (hk : k < s.cfg.variant.size / s.cfg.variant.sectorSize)
    (hbit : s.flash.pending.getLsbD k = true) (hlast : dropSector s.flash.pending k = 0#64) :
    QueueErased s (sectorPopped s k rest) rest := by
  refine queueErased_of_popped (rest' := rest) hvariant hk hbit
    ⟨if_pos hlast, if_pos hlast, hlast, rfl, fun x _ => ?_⟩
  simp [sectorPopped, hlast]

end SectorPopped

/-- Every queued sector takes `T_SECTOR_ERASE` ticks (decision D11): by induction on the sectors left behind
the lowest one. -/
theorem core_run_queueErased {s : State} {n : Nat} {rest : List Op}
    (h : SectorEraseArmed s (n + 1) rest) :
    ∃ t, Host.Core.run Sys2Proof.core ((n + 1) * s.cfg.tSectorErase) s = .next t
      ∧ QueueErased s t rest := by
  have hvariant := (config_wf_parts h.cfg).1
  induction n generalizing s with
  | zero =>
    obtain ⟨k, hsector, hk, hbit, hrun⟩ := core_run_sectorPopped h
    have hlast : dropSector s.flash.pending k = 0#64 := by
      rw [← queueCount_eq_zero]
      have := queueCount_dropSector hk hbit
      have := h.count
      omega
    rw [Nat.zero_mul, List.replicate_zero, List.nil_append] at hrun
    rw [Nat.zero_add, Nat.one_mul]
    exact ⟨_, hrun, queueErased_sectorPopped hvariant hsector hbit hlast⟩
  | succ n ih =>
    obtain ⟨k, hsector, hk, hbit, hrun⟩ := core_run_sectorPopped h
    obtain ⟨t, ht, herased⟩ := ih (sectorPopped_armed h (Nat.succ_ne_zero n) hk hbit) hvariant
    refine ⟨t, ?_, queueErased_of_popped hvariant hsector hbit herased⟩
    rw [Nat.succ_mul, Nat.add_comm, core_run_add hrun]
    exact ht

/-- Settles O24: the short timeout leads to the armed sector erase with the same array and queue, which
`core_run_queueErased` ends. -/
theorem sectorEraseEnds : Obligations.SectorEraseEnds := by
  intro s n rest hinv hseq htimer hn hin
  obtain ⟨hcfg, hchip⟩ := (flashInv_iff s).mp hinv
  obtain ⟨-, htimeout, -, -⟩ := config_wf_parts hcfg
  have hqueued : s.flash.pending ≠ 0#64 := fun hzero => by
    have hfalse := hchip.queue.1.mp hzero
    rw [hseq] at hfalse
    cases hfalse
  obtain ⟨m, rfl⟩ := Nat.exists_eq_succ_of_ne_zero
    (fun hzero => hqueued (queueCount_eq_zero.mp (hn.symm.trans hzero)))
  rw [List.replicate_add, List.append_assoc] at hin
  have hshort := core_run_ticks_expire htimeout htimer hin
  rw [expire_of_sectorEraseTimeout hseq] at hshort
  have harmed : SectorEraseArmed { s with
      clk := s.clk + s.cfg.tSectorTimeout
      inputs := List.replicate ((m + 1) * s.cfg.tSectorErase) .flTick ++ rest
      flash := { s.flash with
        seq := .sectorErase
        eraseTimer := some (s.clk + s.cfg.tSectorTimeout + s.cfg.tSectorErase) } } (m + 1) rest :=
    ⟨hcfg, rfl, rfl, hchip.queue.2, hn.symm, rfl⟩
  obtain ⟨t, ht, herased⟩ := core_run_queueErased harmed
  exact ⟨t, (core_run_add hshort _).trans ht, herased.seq, herased.timer, herased.pending,
    herased.inputs, herased.read⟩

end Sys2Proof.Proofs

/-! The serial EEPROM (spec/43_eeprom.md): the four line operations, the rule of each threshold, the frames
from a command boundary, the gate of the write latch, and the controller's invariant. -/

namespace Sys2Proof.Proofs

open Laws.UnitOfEngine (port)
open Machine Laws

/-! ## A row as an operation of the controller -/

section Rows

variable {i : Instr} {s : State} {e : SerialEeprom}

theorem exec_of_writeSelect {v : Bool} (hop : encode i = .eeSelect v)
    (h : s.eeprom.writeSelect v = e) : exec i s = .next { s with eeprom := e } := by
  subst h
  rw [exec_eq_perform, hop]
  rfl

theorem exec_of_writeClock {v : Bool} (hop : encode i = .eeClock v)
    (h : s.eeprom.writeClock v = e) : exec i s = .next { s with eeprom := e } := by
  subst h
  rw [exec_eq_perform, hop]
  rfl

theorem exec_of_clockBits {bits : List Bool} (hop : encode i = .eeFrame bits)
    (h : s.eeprom.clockBits bits = e) : exec i s = .next { s with eeprom := e } := by
  subst h
  rw [exec_eq_perform, hop]
  rfl

end Rows

/-- Settles O27: the data line is a field of its own. -/
theorem eepromDataLine : Obligations.EepromDataLine := by
  intro s b
  rfl

/-! ## Chip select and the data output -/

section Select

variable {e : SerialEeprom}

/-- Chip select rising is a command boundary only while the clock is low (R224). -/
theorem writeSelect_rise (hcs : e.cs = false) :
    e.writeSelect true =
      { e with
        cs := true
        inSr := if e.ck then e.inSr else 0#29
        inCnt := if e.ck then e.inCnt else 0 } := by
  have hedge : true ≠ e.cs := by simp [hcs]
  rw [SerialEeprom.writeSelect, if_neg hedge, if_pos rfl, SerialEeprom.selectRise]
  cases hck : e.ck
  · rw [if_pos rfl]
    simp [hck]
  · simp [hck]

@[simp] theorem writeSelect_wel (e : SerialEeprom) (v : Bool) : (e.writeSelect v).wel = e.wel := by
  have hrise : e.selectRise.wel = e.wel := (apply_ite SerialEeprom.wel _ _ _).trans (ite_self _)
  have hfall : e.selectFall.wel = e.wel := by
    unfold SerialEeprom.selectFall
    cases e.command <;> rfl
  unfold SerialEeprom.writeSelect
  split_ifs
  · rfl
  · exact hrise
  · exact hfall

theorem writeSelect_fall (hcs : e.cs = true) :
    e.writeSelect false = { e.selectFall with cs := false } := by
  have hedge : false ≠ e.cs := by simp [hcs]
  rw [SerialEeprom.writeSelect, if_neg hedge, if_neg Bool.false_ne_true]

/-- Chip select falling ends a read (R225, log 16). -/
theorem selectFall_of_reading (h : reading e.command = true) :
    e.selectFall = { e.idle with dout := false, outCnt := 0 } := by
  unfold SerialEeprom.selectFall
  cases hc : e.command
  case readAddrLatched | readStreaming => rfl
  all_goals simp [hc, reading] at h

theorem selectFall_of_busy (h : e.command = .busy) :
    e.selectFall = { e with command := .ready } := by
  simp only [SerialEeprom.selectFall, h]

theorem selectFall_of_other (hr : reading e.command = false) (hb : e.command ≠ .busy) :
    e.selectFall = e := by
  unfold SerialEeprom.selectFall
  cases hc : e.command
  case readAddrLatched | readStreaming => simp [hc, reading] at hr
  case busy => exact absurd hc hb
  all_goals rfl

end Select

/-- Settles O28: the two edges of chip select and the data output, each by its rule. -/
theorem eepromSelectAndOutput : Obligations.EepromSelectAndOutput := by
  intro s
  refine ⟨fun hcs => ?_, fun hcs hread => ?_, fun hcs hbusy => ?_, fun hcs hread hbusy => ?_, ?_⟩
  · exact exec_of_writeSelect rfl (writeSelect_rise hcs)
  · refine exec_of_writeSelect rfl ?_
    rw [writeSelect_fall hcs, selectFall_of_reading hread]
    rfl
  · refine exec_of_writeSelect rfl ?_
    rw [writeSelect_fall hcs, selectFall_of_busy hbusy]
  · refine exec_of_writeSelect rfl ?_
    rw [writeSelect_fall hcs, selectFall_of_other hread hbusy]
  · rfl

/-! ## The read stream -/

theorem wordOfBytes_toNat (hi lo : Byte) :
    (wordOfBytes hi lo).toNat = 256 * hi.toNat + lo.toNat := by
  rw [wordOfBytes, BitVec.toNat_append, ← Nat.shiftLeft_add_eq_or_of_lt lo.isLt,
    Nat.shiftLeft_eq, Nat.mul_comm]

/-- The next address of a read wraps at the last of the 1024 words (R240, decision D41). -/
theorem addr_succ_toNat (a : BitVec 10) : (a + 1#10).toNat = (a.toNat + 1) % 1024 :=
  BitVec.toNat_add a 1#10

theorem writeClock_edge {e : SerialEeprom} (hcs : e.cs = true) (hck : e.ck = false) :
    e.writeClock true = { e.risingEdge with ck := true } :=
  if_pos ⟨hcs, hck, rfl⟩

theorem risingEdge_of_readAddrLatched {e : SerialEeprom} (h : e.command = .readAddrLatched) :
    e.risingEdge = e.dummyEdge := by
  simp only [SerialEeprom.risingEdge, h]

theorem risingEdge_of_readStreaming {e : SerialEeprom} (h : e.command = .readStreaming) :
    e.risingEdge = e.streamEdge := by
  simp only [SerialEeprom.risingEdge, h]

/-- Settles O30: the dummy edge and the two branches of a streaming edge. -/
theorem eepromReadEdges : Obligations.EepromReadEdges := by
  intro s hcs hck
  refine ⟨fun hcmd => ?_, fun hcmd hout => ?_, fun hcmd hout => ?_⟩
  · refine ⟨s.eeprom.word s.eeprom.addr, wordOfBytes_toNat _ _, exec_of_writeClock rfl ?_⟩
    rw [writeClock_edge hcs hck, risingEdge_of_readAddrLatched hcmd]
    rfl
  · refine exec_of_writeClock rfl ?_
    rw [writeClock_edge hcs hck, risingEdge_of_readStreaming hcmd, SerialEeprom.streamEdge,
      if_neg (by omega)]
  · refine ⟨s.eeprom.word (s.eeprom.addr + 1#10), ?_, exec_of_writeClock rfl ?_⟩
    · rw [SerialEeprom.word, wordOfBytes_toNat, addr_succ_toNat]
    · rw [writeClock_edge hcs hck, risingEdge_of_readStreaming hcmd, SerialEeprom.streamEdge,
        if_pos (by omega)]

/-! ## The rules of the thresholds -/

section Thresholds

variable {e : SerialEeprom}

theorem threshold_one (h : e.inCnt = 1) : e.threshold = e.startBit := by
  simp [SerialEeprom.threshold, h]

theorem threshold_three (h : e.inCnt = 3) : e.threshold = e.opcodeClass := by
  simp [SerialEeprom.threshold, h]

theorem threshold_five (h : e.inCnt = 5) : e.threshold = e.subOpcode := by
  simp [SerialEeprom.threshold, h]

theorem threshold_thirteen (h : e.inCnt = 13) : e.threshold = e.addressDone := by
  simp [SerialEeprom.threshold, h]

theorem threshold_twentynine (h : e.inCnt = 29) : e.threshold = e.dataDone := by
  simp [SerialEeprom.threshold, h]

theorem getLsbD_lowBits {m k : Nat} (sr : BitVec 29) (hk : k < m) :
    (sr.extractLsb' 0 m).getLsbD k = sr.getLsbD k := by
  simp [hk]

/-- The low bits of the input register are a code exactly when each of them is the code's. -/
theorem extract_eq_iff {m : Nat} (sr : BitVec 29) (code : BitVec m) :
    sr.extractLsb' 0 m = code ↔ ∀ k < m, sr.getLsbD k = code.getLsbD k := by
  constructor
  · rintro rfl k hk
    exact (getLsbD_lowBits sr hk).symm
  · intro h
    exact BitVec.eq_of_getLsbD_eq fun k hk => (getLsbD_lowBits sr hk).trans (h k hk)

/-- The third bit decides the opcode class; a fourth class is left to the fifth bit (R230). -/
theorem opcodeClass_eq (e : SerialEeprom) :
    e.opcodeClass =
      { e with command :=
          if e.inSr.getLsbD 2 = true ∧ e.inSr.getLsbD 1 = true ∧ e.inSr.getLsbD 0 = false then .read
          else if e.inSr.getLsbD 2 = true ∧ e.inSr.getLsbD 1 = false ∧ e.inSr.getLsbD 0 = true then
            .write
          else if e.inSr.getLsbD 2 = true ∧ e.inSr.getLsbD 1 = true ∧ e.inSr.getLsbD 0 = true then
            .erase
          else e.command } := by
  have hcode (code : BitVec 3) :
      e.inSr.extractLsb' 0 3 = code ↔ e.inSr.getLsbD 2 = code.getLsbD 2
        ∧ e.inSr.getLsbD 1 = code.getLsbD 1 ∧ e.inSr.getLsbD 0 = code.getLsbD 0 := by
    simp only [extract_eq_iff, Nat.forall_lt_succ_right, Nat.not_lt_zero, false_implies,
      implies_true, true_and, and_assoc]
    tauto
  have hread : e.inSr.extractLsb' 0 3 = 0b110#3 ↔
      e.inSr.getLsbD 2 = true ∧ e.inSr.getLsbD 1 = true ∧ e.inSr.getLsbD 0 = false := hcode _
  have hwrite : e.inSr.extractLsb' 0 3 = 0b101#3 ↔
      e.inSr.getLsbD 2 = true ∧ e.inSr.getLsbD 1 = false ∧ e.inSr.getLsbD 0 = true := hcode _
  have herase : e.inSr.extractLsb' 0 3 = 0b111#3 ↔
      e.inSr.getLsbD 2 = true ∧ e.inSr.getLsbD 1 = true ∧ e.inSr.getLsbD 0 = true := hcode _
  simp only [SerialEeprom.opcodeClass, hread, hwrite, herase]
  split_ifs <;> rfl

/-- The fifth bit decides the command of the extended class alone (R231, decision D33). -/
theorem subOpcode_eq (e : SerialEeprom) :
    e.subOpcode =
      { e with command :=
          if e.command ≠ .none then e.command
          else if e.inSr.getLsbD 1 then (if e.inSr.getLsbD 0 then .writeEnable else .eraseAll)
          else (if e.inSr.getLsbD 0 then .writeAll else .writeDisable) } := by
  have hcode (code : BitVec 2) :
      e.inSr.extractLsb' 0 2 = code ↔
        e.inSr.getLsbD 1 = code.getLsbD 1 ∧ e.inSr.getLsbD 0 = code.getLsbD 0 := by
    simp only [extract_eq_iff, Nat.forall_lt_succ_right, Nat.not_lt_zero, false_implies,
      implies_true, true_and]
    tauto
  by_cases hcmd : e.command = .none
  · simp only [SerialEeprom.subOpcode, hcode, ne_eq, hcmd, not_true_eq_false, if_false]
    cases e.inSr.getLsbD 1 <;> cases e.inSr.getLsbD 0 <;> rfl
  · rw [SerialEeprom.subOpcode, if_neg hcmd, if_pos hcmd]

/-! ### The thirteenth bit, for each command (R232) -/

section Address

variable {a : BitVec 10} (ha : e.inSr.extractLsb' 0 10 = a)

include ha

theorem addressDone_of_no_action
    (h : e.command ∉ [.read, .writeEnable, .writeDisable, .eraseAll, .erase]) :
    e.addressDone = { e with addr := a } := by
  subst ha
  unfold SerialEeprom.addressDone
  cases hcmd : e.command
  case read | writeEnable | writeDisable | eraseAll | erase => simp [hcmd] at h
  all_goals rfl

theorem addressDone_of_read (h : e.command = .read) :
    e.addressDone = { e with addr := a, command := .readAddrLatched, dout := false } := by
  subst ha
  simp only [SerialEeprom.addressDone, h, SerialEeprom.cmdRead]

theorem addressDone_of_enable (h : e.command = .writeEnable ∨ e.command = .writeDisable) :
    e.addressDone =
      { e with
        inSr := 0#29, inCnt := 0, addr := a, command := .none
        wel := decide (e.command = .writeEnable) } := by
  subst ha
  rcases h with h | h <;> simp only [SerialEeprom.addressDone, h] <;> rfl

/-- Without the latch the two erase commands only go idle (R244, decision D37). -/
theorem addressDone_of_erase_unlatched (h : e.command = .eraseAll ∨ e.command = .erase)
    (hwel : e.wel = false) :
    e.addressDone = { e with inSr := 0#29, inCnt := 0, addr := a, command := .none } := by
  subst ha
  have hnot : ¬e.wel = true := by simp [hwel]
  rcases h with h | h <;> simp only [SerialEeprom.addressDone, h] <;> exact if_neg hnot

theorem addressDone_of_eraseAll (h : e.command = .eraseAll) (hwel : e.wel = true) :
    e.addressDone =
      { e with
        cells := e.cells.erase 0 2048
        inSr := 0#29, inCnt := 0, addr := a, command := .none } := by
  subst ha
  simp only [SerialEeprom.addressDone, h]
  exact if_pos hwel

theorem addressDone_of_erase (h : e.command = .erase) (hwel : e.wel = true) :
    e.addressDone =
      { e with
        cells := e.cells.writeWord a.toNat 0xFFFF#16
        inSr := 0#29, inCnt := 0, addr := a, command := .busy } := by
  subst ha
  simp only [SerialEeprom.addressDone, h]
  exact if_pos hwel

end Address

/-! ### The twenty-ninth bit, for each command (R241, R242) -/

theorem dataDone_of_no_action (h : e.command ∉ [.write, .writeAll]) : e.dataDone = e := by
  unfold SerialEeprom.dataDone
  cases hcmd : e.command
  case write | writeAll => simp [hcmd] at h
  all_goals rfl

/-- Without the latch the two write commands only go idle (R244, decision D37). -/
theorem dataDone_of_unlatched (h : e.command = .write ∨ e.command = .writeAll)
    (hwel : e.wel = false) :
    e.dataDone = { e with inSr := 0#29, inCnt := 0, command := .none } := by
  have hnot : ¬e.wel = true := by simp [hwel]
  rcases h with h | h <;> simp only [SerialEeprom.dataDone, h] <;> exact if_neg hnot

theorem dataDone_of_write {d : BitVec 16} (hd : e.inSr.extractLsb' 0 16 = d)
    (h : e.command = .write) (hwel : e.wel = true) :
    e.dataDone =
      { e with
        cells := e.cells.writeWord e.addr.toNat d
        inSr := 0#29, inCnt := 0, command := .busy } := by
  subst hd
  simp only [SerialEeprom.dataDone, h]
  exact if_pos hwel

theorem dataDone_of_writeAll {d : BitVec 16} (hd : e.inSr.extractLsb' 0 16 = d)
    (h : e.command = .writeAll) (hwel : e.wel = true) :
    e.dataDone =
      { e with
        cells := e.cells.writeWords d 1024
        inSr := 0#29, inCnt := 0, command := .busy } := by
  subst hd
  simp only [SerialEeprom.dataDone, h]
  exact if_pos hwel

end Thresholds

/-! ## A rising edge outside a read -/

section Edge

variable {e : SerialEeprom} (hcs : e.cs = true) (hck : e.ck = false)
  (hr : reading e.command = false)

include hcs hck hr

/-- Away from the thresholds a bit is shifted in and counted, no more (R228). -/
theorem writeClock_between (h : e.inCnt ∉ [0, 2, 4, 12, 28]) :
    e.writeClock true =
      { e with ck := true, inSr := shiftIn e.inSr e.di, inCnt := e.inCnt + 1 } := by
  rw [writeClock_shift hcs hck hr, threshold_none]
  simpa using h

/-- A one is the start bit and ends the last command, a zero is discarded (R229, decision D38). -/
theorem writeClock_first (h : e.inCnt = 0) :
    e.writeClock true =
      { e with
        ck := true
        inSr := if e.di then shiftIn e.inSr e.di else 0#29
        inCnt := if e.di then 1 else 0
        command := if e.di then .none else e.command } := by
  rw [writeClock_shift hcs hck hr, threshold_one (congrArg (· + 1) h), SerialEeprom.startBit]
  cases e.di <;> simp [h, SerialEeprom.boundary]

variable {f : SerialEeprom}

theorem writeClock_third (h : e.inCnt = 2)
    (hf : SerialEeprom.opcodeClass { e with inSr := shiftIn e.inSr e.di, inCnt := 3 } = f) :
    e.writeClock true = { f with ck := true } := by
  rw [writeClock_shift hcs hck hr, h, threshold_three rfl, hf]

theorem writeClock_fifth (h : e.inCnt = 4)
    (hf : SerialEeprom.subOpcode { e with inSr := shiftIn e.inSr e.di, inCnt := 5 } = f) :
    e.writeClock true = { f with ck := true } := by
  rw [writeClock_shift hcs hck hr, h, threshold_five rfl, hf]

theorem writeClock_thirteenth (h : e.inCnt = 12)
    (hf : SerialEeprom.addressDone { e with inSr := shiftIn e.inSr e.di, inCnt := 13 } = f) :
    e.writeClock true = { f with ck := true } := by
  rw [writeClock_shift hcs hck hr, h, threshold_thirteen rfl, hf]

theorem writeClock_twentyninth (h : e.inCnt = 28)
    (hf : SerialEeprom.dataDone { e with inSr := shiftIn e.inSr e.di, inCnt := 29 } = f) :
    e.writeClock true = { f with ck := true } := by
  rw [writeClock_shift hcs hck hr, h, threshold_twentynine rfl, hf]

end Edge

theorem writeClock_no_edge {e : SerialEeprom} {v : Bool}
    (h : ¬(e.cs = true ∧ e.ck = false ∧ v = true)) : e.writeClock v = { e with ck := v } :=
  if_neg h

/-! ## The array after an accepted command -/

/-- An erased word reads 0xFF in both bytes (decision D35). -/
theorem read_erasedWord {m : Memory} (hm : m.wf = true) (a x : Nat) :
    (m.writeWord a 0xFFFF#16).read x = if x = 2 * a ∨ x = 2 * a + 1 then 0xFF#8 else m.read x := by
  have hhigh : highByte 0xFFFF#16 = 0xFF#8 := by decide
  have hlow : lowByte 0xFFFF#16 = 0xFF#8 := by decide
  rw [read_writeWord hm, hhigh, hlow]
  split_ifs <;> first | rfl | omega

/-- A stored word, by the word an address lies in and the address's parity. -/
theorem read_writeWord_div {m : Memory} (hm : m.wf = true) (a : Nat) (d : BitVec 16) (x : Nat) :
    (m.writeWord a d).read x =
      if x / 2 = a then (if x % 2 = 0 then highByte d else lowByte d) else m.read x := by
  rw [read_writeWord hm]
  split_ifs <;> first | rfl | omega

/-- With the latch set the thirteenth bit of ERAL or ERASE erases (R237, R243, decisions D35, D37). -/
theorem addressDone_of_erase_latched {e : SerialEeprom}
    (h : e.command = .eraseAll ∨ e.command = .erase) (hwel : e.wel = true)
    (hwf : e.cells.wf = true) :
    ∃ cells' : Memory,
      cells'.wf = true
      ∧ (∀ x, cells'.read x =
          if (e.command = .eraseAll ∧ x < 2048)
              ∨ (e.command = .erase ∧ (x = 2 * (e.inSr.extractLsb' 0 10).toNat
                ∨ x = 2 * (e.inSr.extractLsb' 0 10).toNat + 1))
            then 0xFF#8 else e.cells.read x)
      ∧ e.addressDone =
        { e with
          inSr := 0#29, inCnt := 0, addr := e.inSr.extractLsb' 0 10, cells := cells'
          command := if e.command = .erase then .busy else .none } := by
  rcases h with h | h
  · refine ⟨_, erase_wf hwf 0 2048, fun x => ?_, ?_⟩
    · simp [read_erase_zero, h]
    · simp [addressDone_of_eraseAll rfl h hwel, h]
  · refine ⟨_, writeWord_wf hwf (e.inSr.extractLsb' 0 10).toNat 0xFFFF#16, fun x => ?_, ?_⟩
    · simp [read_erasedWord hwf, h]
    · simp [addressDone_of_erase rfl h hwel, h]

/-- With the latch set the twenty-ninth bit of WRITE or WRAL stores (R241, R242, decisions D34, D37). -/
theorem dataDone_of_latched {e : SerialEeprom} (h : e.command = .write ∨ e.command = .writeAll)
    (hwel : e.wel = true) (hwf : e.cells.wf = true) :
    ∃ cells' : Memory,
      cells'.wf = true
      ∧ (∀ x, cells'.read x =
          if (e.command = .writeAll ∧ x < 2048) ∨ x / 2 = e.addr.toNat
            then (if x % 2 = 0 then highByte (e.inSr.extractLsb' 0 16)
              else lowByte (e.inSr.extractLsb' 0 16))
            else e.cells.read x)
      ∧ e.dataDone =
        { e with inSr := 0#29, inCnt := 0, cells := cells', command := .busy } := by
  rcases h with h | h
  · refine ⟨_, writeWord_wf hwf e.addr.toNat (e.inSr.extractLsb' 0 16), fun x => ?_,
      dataDone_of_write rfl h hwel⟩
    simp [read_writeWord_div hwf, h]
  · refine ⟨_, writeWords_wf hwf (e.inSr.extractLsb' 0 16) 1024, fun x => ?_,
      dataDone_of_writeAll rfl h hwel⟩
    have hlast : x / 2 = e.addr.toNat → x < 2048 := by omega
    have hrange : (e.command = .writeAll ∧ x < 2048) ∨ x / 2 = e.addr.toNat ↔ x < 2 * 1024 := by
      simp only [h, true_and]
      exact or_iff_left_of_imp hlast
    rw [read_writeWords hwf, if_congr hrange rfl rfl]

/-! ## A frame is the run of its single operations -/

/-- A pending operation that goes on is taken first. -/
theorem core_run_op {s t : State} {op : Op} {rest : List Op} (h : s.inputs = op :: rest)
    (hop : perform op { s with inputs := rest } = .next t) (n : Nat) :
    Host.Core.run Sys2Proof.core (n + 1) s = Host.Core.run Sys2Proof.core n t :=
  core_run_succ ((stepPerformsTheOperation s op rest h).trans hop) n

/-- The three operations of one bit (00_scope.md R18). -/
def bitOps (b : Bool) : List Op := [.eeData b, .eeClock true, .eeClock false]

theorem core_run_bit (s : State) (b : Bool) (rest : List Op) :
    Host.Core.run Sys2Proof.core 3 { s with inputs := bitOps b ++ rest } =
      .next { s with eeprom := s.eeprom.clockBit b, inputs := rest } := by
  rw [core_run_op rfl rfl, core_run_op rfl rfl, core_run_op rfl rfl]
  rfl

theorem core_run_bits (s : State) (bits : List Bool) (rest : List Op) :
    Host.Core.run Sys2Proof.core (3 * bits.length)
        { s with inputs := bits.flatMap bitOps ++ rest } =
      .next { s with eeprom := s.eeprom.clockBits bits, inputs := rest } := by
  induction bits generalizing s with
  | nil => rfl
  | cons b bits ih =>
    have hlen : 3 * (b :: bits).length = 3 + 3 * bits.length := by
      rw [List.length_cons]
      omega
    rw [hlen, List.flatMap_cons, List.append_assoc, core_run_add (core_run_bit s b _)]
    exact ih { s with eeprom := s.eeprom.clockBit b }

/-! ## The clock -/

/-- A start bit at a command boundary stands alone in the input register. -/
theorem writeClock_atBoundary {e : SerialEeprom} (h : e.AtBoundary) :
    e.writeClock true =
      { e with
        ck := true
        inSr := if e.di then 1#29 else 0#29
        inCnt := if e.di then 1 else 0
        command := if e.di then .none else e.command } := by
  obtain ⟨hcs, hck, hsr, hcnt, hr⟩ := h
  rw [writeClock_first hcs hck hr hcnt, hsr]
  cases e.di <;> rfl

/-- Settles O29: the edge rule of each count, and the run of a frame's single operations. -/
theorem eepromClock : Obligations.EepromClock := by
  refine ⟨fun s v h => exec_of_writeClock rfl (writeClock_no_edge h),
    fun s h => exec_of_writeClock rfl (writeClock_atBoundary h), fun s hcs hck hr => ?_,
    fun s bits rest => ?_⟩
  · refine ⟨shiftIn s.eeprom.inSr s.eeprom.di,
      (shiftIn s.eeprom.inSr s.eeprom.di).extractLsb' 0 10,
      (shiftIn s.eeprom.inSr s.eeprom.di).extractLsb' 0 16,
      ⟨getLsbD_shiftIn _ _ 0, fun i hi => ?_⟩, fun i hi => getLsbD_lowBits _ hi,
      fun i hi => getLsbD_lowBits _ hi,
      fun h => exec_of_writeClock rfl (writeClock_between hcs hck hr h),
      fun h => exec_of_writeClock rfl (writeClock_first hcs hck hr h),
      fun h => exec_of_writeClock rfl (writeClock_third hcs hck hr h (opcodeClass_eq _)),
      fun h => exec_of_writeClock rfl (writeClock_fifth hcs hck hr h (subOpcode_eq _)),
      fun h => ?_, fun h => ?_⟩
    · rw [getLsbD_shiftIn, if_neg (Nat.succ_ne_zero i), decide_eq_true (by omega), Bool.true_and,
        Nat.add_sub_cancel]
    · have hedge {f} := writeClock_thirteenth hcs hck hr h (f := f)
      refine ⟨fun hcmd => exec_of_writeClock rfl (hedge (addressDone_of_no_action rfl hcmd)),
        fun hcmd => exec_of_writeClock rfl (hedge (addressDone_of_read rfl hcmd)),
        fun hcmd => exec_of_writeClock rfl (hedge (addressDone_of_enable rfl hcmd)),
        fun hcmd hwel =>
          exec_of_writeClock rfl (hedge (addressDone_of_erase_unlatched rfl hcmd hwel)),
        fun hcmd hwel hwf => ?_⟩
      obtain ⟨cells', hwf', hread, hdone⟩ := addressDone_of_erase_latched
        (e := { s.eeprom with inSr := shiftIn s.eeprom.inSr s.eeprom.di, inCnt := 13 })
        hcmd hwel hwf
      exact ⟨cells', hwf', hread, exec_of_writeClock rfl (hedge hdone)⟩
    · have hedge {f} := writeClock_twentyninth hcs hck hr h (f := f)
      refine ⟨fun hcmd => exec_of_writeClock rfl (hedge (dataDone_of_no_action hcmd)),
        fun hcmd hwel => exec_of_writeClock rfl (hedge (dataDone_of_unlatched hcmd hwel)),
        fun hcmd hwel hwf => ?_⟩
      obtain ⟨cells', hwf', hread, hdone⟩ := dataDone_of_latched
        (e := { s.eeprom with inSr := shiftIn s.eeprom.inSr s.eeprom.di, inCnt := 29 })
        hcmd hwel hwf
      exact ⟨cells', hwf', hread, exec_of_writeClock rfl (hedge hdone)⟩
  · rw [stepPerformsTheOperation _ (.eeFrame bits) rest rfl]
    exact core_run_bits s bits rest

/-! ## Frames from a command boundary -/

/-- The address rule reads the operand a thirteen-bit frame ends with. -/
theorem extract_address (k : Nat) (a : BitVec 10) :
    (BitVec.ofNat 29 (k * 2 ^ 10 + a.toNat)).extractLsb' 0 10 = a := by
  rw [extract_ofNat _ _ (by omega), ofNat_operand]

/-- The address of an extended frame is the two bits of its command, then the ignored bits (R232). -/
theorem extract_extended (k : Nat) (x : BitVec 8) :
    (BitVec.ofNat 29 (k * 2 ^ 8 + x.toNat)).extractLsb' 0 10 = BitVec.ofNat 2 k ++ x := by
  rw [extract_ofNat _ _ (by omega)]
  apply BitVec.eq_of_toNat_eq
  rw [BitVec.toNat_append, BitVec.toNat_ofNat, BitVec.toNat_ofNat,
    ← Nat.shiftLeft_add_eq_or_of_lt x.isLt, Nat.shiftLeft_eq]
  omega

theorem extract_word (k : Nat) (d : BitVec 16) :
    (BitVec.ofNat 29 (k * 2 ^ 16 + d.toNat)).extractLsb' 0 16 = d := by
  rw [extract_ofNat _ _ (by omega), ofNat_operand]

@[simp] theorem addressDone_ck (e : SerialEeprom) : e.addressDone.ck = e.ck := by
  unfold SerialEeprom.addressDone
  cases e.command
  case eraseAll => exact (apply_ite SerialEeprom.ck _ _ _).trans (ite_self _)
  case erase => exact (apply_ite SerialEeprom.ck _ _ _).trans (ite_self _)
  all_goals rfl

@[simp] theorem dataDone_ck (e : SerialEeprom) : e.dataDone.ck = e.ck := by
  unfold SerialEeprom.dataDone
  cases e.command
  case write => exact (apply_ite SerialEeprom.ck _ _ _).trans (ite_self _)
  case writeAll => exact (apply_ite SerialEeprom.ck _ _ _).trans (ite_self _)
  all_goals rfl

/-- A controller whose clock line is low already. -/
theorem with_ck_low {e : SerialEeprom} (hlow : e.ck = false) : { e with ck := false } = e := by
  rw [← hlow]

section Frames

variable {e : SerialEeprom} (h : e.AtBoundary)

include h

/-- A zero where a start bit is expected is discarded (R229). -/
theorem frame_zeroStart : e.clockBits [false] = { e with di := false } := by
  obtain ⟨hcs, hck, hsr, hcnt, hr⟩ := h
  have hedge := writeClock_first (e := e.writeData false) hcs hck hr hcnt
  have hzero : (e.writeData false).di = false := rfl
  rw [clockBits_cons, clockBits_nil, SerialEeprom.clockBit, hedge, hzero,
    writeClock_no_edge (by simp)]
  simp [SerialEeprom.writeData, hsr, hcnt, hck]

/-! ### Each frame at its last rule -/

/-- A frame of READ or ERASE, or the first thirteen bits of WRITE, up to the address rule. -/
theorem frame_class_addressDone (b1 b0 : Bool) {c : EeCommand}
    (hc : c = if b1 then (if b0 then .erase else .read) else (if b0 then .write else .none))
    (hn : c ≠ .none) (hr : reading c = false) (a : BitVec 10) :
    e.clockBits ([true, b1, b0] ++ msbBits 10 a.toNat) =
      (midFrame e c 13 ((4 + 2 * b1.toNat + b0.toNat) * 2 ^ 10 + a.toNat)
        (a.getLsbD 0)).addressDone :=
  (frame_class h b1 b0 hc hn hr a).trans (with_ck_low ((addressDone_ck _).trans h.2.1))

/-- A frame of WDS, ERAL or WEN, or the first thirteen bits of WRAL, up to the address rule. -/
theorem frame_extended_addressDone (b1 b0 : Bool) {c : EeCommand}
    (hc : c = if b1 then (if b0 then .writeEnable else .eraseAll)
      else (if b0 then .writeAll else .writeDisable))
    (hn : c ≠ .none) (hr : reading c = false) (x : BitVec 8) :
    e.clockBits ([true, false, false, b1, b0] ++ msbBits 8 x.toNat) =
      (midFrame e c 13 ((16 + 2 * b1.toNat + b0.toNat) * 2 ^ 8 + x.toNat)
        (x.getLsbD 0)).addressDone :=
  (frame_extended h b1 b0 hc hn hr x).trans (with_ck_low ((addressDone_ck _).trans h.2.1))

/-- A frame with a data word: the thirteenth bit has taken the address, the twenty-ninth is the data
rule's. -/
theorem frame_data {c : EeCommand} (hc : c = .write ∨ c = .writeAll) {bits : List Bool} {v : Nat}
    {b : Bool} {a : BitVec 10} (ha : (BitVec.ofNat 29 v).extractLsb' 0 10 = a)
    (hbits : e.clockBits bits = (midFrame e c 13 v b).addressDone) (d : BitVec 16) :
    e.clockBits (bits ++ msbBits 16 d.toNat) =
      (midFrame { e with addr := a } c 29 (v * 2 ^ 16 + d.toNat) (d.getLsbD 0)).dataDone := by
  obtain ⟨hcs, hck, -, -, -⟩ := h
  have hcmd : c ∉ [.read, .writeEnable, .writeDisable, .eraseAll, .erase] := by
    rcases hc with rfl | rfl <;> decide
  have hr : reading c = false := by rcases hc with rfl | rfl <;> rfl
  have hne : c ≠ .none := by rcases hc with rfl | rfl <;> decide
  have hmid : (midFrame e c 13 v b).addressDone = midFrame { e with addr := a } c 13 v b :=
    addressDone_of_no_action (e := midFrame e c 13 v b) ha hcmd
  rw [clockBits_append, hbits, hmid,
    frame_twentynine (e := { e with addr := a }) hcs hck hr hne d.isLt b]
  exact with_ck_low ((dataDone_ck _).trans hck)

theorem frame_read (a : BitVec 10) :
    e.clockBits (msbBits 3 6 ++ msbBits 10 a.toNat) =
      (midFrame e .read 13 (6 * 2 ^ 10 + a.toNat) (a.getLsbD 0)).addressDone :=
  frame_class_addressDone h true false rfl nofun rfl a

theorem frame_erase (a : BitVec 10) :
    e.clockBits (msbBits 3 7 ++ msbBits 10 a.toNat) =
      (midFrame e .erase 13 (7 * 2 ^ 10 + a.toNat) (a.getLsbD 0)).addressDone :=
  frame_class_addressDone h true true rfl nofun rfl a

theorem frame_write (a : BitVec 10) (d : BitVec 16) :
    e.clockBits (msbBits 3 5 ++ msbBits 10 a.toNat ++ msbBits 16 d.toNat) =
      (midFrame { e with addr := a } .write 29 ((5 * 2 ^ 10 + a.toNat) * 2 ^ 16 + d.toNat)
        (d.getLsbD 0)).dataDone :=
  frame_data h (.inl rfl) (extract_address 5 a)
    (frame_class_addressDone h false true rfl nofun rfl a) d

theorem frame_wds (x : BitVec 8) :
    e.clockBits (msbBits 5 16 ++ msbBits 8 x.toNat) =
      (midFrame e .writeDisable 13 (16 * 2 ^ 8 + x.toNat) (x.getLsbD 0)).addressDone :=
  frame_extended_addressDone h false false rfl nofun rfl x

theorem frame_wral (x : BitVec 8) (d : BitVec 16) :
    e.clockBits (msbBits 5 17 ++ msbBits 8 x.toNat ++ msbBits 16 d.toNat) =
      (midFrame { e with addr := 0b01#2 ++ x } .writeAll 29
        ((17 * 2 ^ 8 + x.toNat) * 2 ^ 16 + d.toNat) (d.getLsbD 0)).dataDone :=
  frame_data h (.inr rfl) (extract_extended 17 x)
    (frame_extended_addressDone h false true rfl nofun rfl x) d

theorem frame_eral (x : BitVec 8) :
    e.clockBits (msbBits 5 18 ++ msbBits 8 x.toNat) =
      (midFrame e .eraseAll 13 (18 * 2 ^ 8 + x.toNat) (x.getLsbD 0)).addressDone :=
  frame_extended_addressDone h true false rfl nofun rfl x

theorem frame_wen (x : BitVec 8) :
    e.clockBits (msbBits 5 19 ++ msbBits 8 x.toNat) =
      (midFrame e .writeEnable 13 (19 * 2 ^ 8 + x.toNat) (x.getLsbD 0)).addressDone :=
  frame_extended_addressDone h true true rfl nofun rfl x

end Frames

/-! ## The frames of each command -/

/-- The input register after a READ frame: the class and the address. -/
theorem readFrame_inSr (a : BitVec 10) :
    BitVec.ofNat 29 (6 * 2 ^ 10 + a.toNat) = (0b110#3 ++ a).zeroExtend 29 := by
  apply BitVec.eq_of_toNat_eq
  rw [BitVec.zeroExtend, BitVec.toNat_setWidth, BitVec.toNat_append,
    ← Nat.shiftLeft_add_eq_or_of_lt a.isLt, Nat.shiftLeft_eq]
  rfl

/-- Settles O31: the frame's thirteen bits and the rule of READ; a zero at the first bit. -/
theorem eepromReadFrame : Obligations.EepromReadFrame := by
  intro s a h
  refine ⟨exec_of_clockBits rfl ?_, exec_of_clockBits rfl (frame_zeroStart h)⟩
  rw [← readFrame_inSr]
  exact (frame_read h a).trans (addressDone_of_read (extract_address 6 a) rfl)

/-- Settles O32: both frames end in the rule of the latch. -/
theorem eepromEnableFrames : Obligations.EepromEnableFrames := by
  intro s x h
  refine ⟨exec_of_clockBits rfl ?_, exec_of_clockBits rfl ?_⟩
  · exact (frame_wen h x).trans (addressDone_of_enable (extract_extended 19 x) (.inl rfl))
  · exact (frame_wds h x).trans (addressDone_of_enable (extract_extended 16 x) (.inr rfl))

/-- Settles O33: one word stored at the last bit of WRITE, one word erased at the last of ERASE. -/
theorem eepromWordFrames : Obligations.EepromWordFrames := by
  intro s a d h hwel hwf
  refine ⟨⟨_, writeWord_wf hwf a.toNat d, read_writeWord hwf a.toNat d, exec_of_clockBits rfl ?_⟩,
    ⟨_, writeWord_wf hwf a.toNat 0xFFFF#16, read_erasedWord hwf a.toNat,
      exec_of_clockBits rfl ?_⟩⟩
  · exact (frame_write h a d).trans (dataDone_of_write (extract_word _ d) rfl hwel)
  · exact (frame_erase h a).trans (addressDone_of_erase (extract_address 7 a) rfl hwel)

/-- Settles O34: every word stored at the last bit of WRAL, every byte erased at the last of ERAL. -/
theorem eepromWholeArrayFrames : Obligations.EepromWholeArrayFrames := by
  intro s x d h hwel hwf
  refine ⟨⟨_, writeWords_wf hwf d 1024, fun y => ?_, exec_of_clockBits rfl ?_⟩,
    ⟨_, erase_wf hwf 0 2048, fun y => ?_, exec_of_clockBits rfl ?_⟩⟩
  · rw [read_writeWords hwf]
    split_ifs <;> first | rfl | omega
  · exact (frame_wral h x d).trans (dataDone_of_writeAll (extract_word _ d) rfl hwel)
  · rw [read_erase_zero]
    split_ifs <;> first | rfl | omega
  · exact (frame_eral h x).trans (addressDone_of_eraseAll (extract_extended 18 x) rfl hwel)

/-- Settles O35: without the latch each of the four frames ends in `idle()`. -/
theorem eepromRejectedFrames : Obligations.EepromRejectedFrames := by
  intro s a x d h hwel
  refine ⟨exec_of_clockBits rfl ?_, exec_of_clockBits rfl ?_, exec_of_clockBits rfl ?_,
    exec_of_clockBits rfl ?_⟩
  · exact (frame_write h a d).trans (dataDone_of_unlatched (.inl rfl) hwel)
  · exact (frame_erase h a).trans
      (addressDone_of_erase_unlatched (extract_address 7 a) (.inr rfl) hwel)
  · exact (frame_wral h x d).trans (dataDone_of_unlatched (.inr rfl) hwel)
  · exact (frame_eral h x).trans
      (addressDone_of_erase_unlatched (extract_extended 18 x) (.inl rfl) hwel)

/-! ## The gate of the write latch -/

section Gate

variable {e : SerialEeprom}

@[simp] theorem startBit_wel (e : SerialEeprom) : e.startBit.wel = e.wel :=
  (apply_ite SerialEeprom.wel _ _ _).trans (ite_self _)

@[simp] theorem opcodeClass_wel (e : SerialEeprom) : e.opcodeClass.wel = e.wel := by
  rw [opcodeClass_eq]

@[simp] theorem subOpcode_wel (e : SerialEeprom) : e.subOpcode.wel = e.wel := by
  rw [subOpcode_eq]

/-- Only WEN and WDS change the latch at the thirteenth bit (R235, R236, R248 (b)). -/
theorem addressDone_wel (e : SerialEeprom) :
    e.addressDone.wel =
      if e.command = .writeEnable then true
      else if e.command = .writeDisable then false
      else e.wel := by
  unfold SerialEeprom.addressDone
  cases e.command
  case eraseAll | erase => exact (apply_ite SerialEeprom.wel _ _ _).trans (ite_self _)
  all_goals rfl

@[simp] theorem dataDone_wel (e : SerialEeprom) : e.dataDone.wel = e.wel := by
  unfold SerialEeprom.dataDone
  cases e.command
  case write | writeAll => exact (apply_ite SerialEeprom.wel _ _ _).trans (ite_self _)
  all_goals rfl

/-- Without the latch the thirteenth bit changes no cell (R244). -/
theorem addressDone_cells (hwel : e.wel = false) : e.addressDone.cells = e.cells := by
  by_cases herase : e.command = .eraseAll ∨ e.command = .erase
  · rw [addressDone_of_erase_unlatched rfl herase hwel]
  · unfold SerialEeprom.addressDone
    cases hcmd : e.command
    case eraseAll | erase => simp [hcmd] at herase
    all_goals rfl

/-- Without the latch the twenty-ninth bit changes no cell (R244). -/
theorem dataDone_cells (hwel : e.wel = false) : e.dataDone.cells = e.cells := by
  by_cases hwrite : e.command = .write ∨ e.command = .writeAll
  · rw [dataDone_of_unlatched hwrite hwel]
  · rw [dataDone_of_no_action (by simpa using hwrite)]

theorem threshold_cells (hwel : e.wel = false) : e.threshold.cells = e.cells := by
  unfold SerialEeprom.threshold
  split_ifs
  · exact startBit_cells e
  · exact opcodeClass_cells e
  · exact subOpcode_cells e
  · exact addressDone_cells hwel
  · exact dataDone_cells hwel
  · rfl

/-- Of the thresholds only the thirteenth bit reaches the latch. -/
theorem threshold_wel (h : e.inCnt ≠ 13) : e.threshold.wel = e.wel := by
  unfold SerialEeprom.threshold
  split_ifs
  · exact startBit_wel e
  · exact opcodeClass_wel e
  · exact subOpcode_wel e
  · exact dataDone_wel e
  · rfl

/-- An edge of a read stream writes neither the array nor the latch. -/
theorem risingEdge_of_reading (hr : reading e.command = true) :
    e.risingEdge.cells = e.cells ∧ e.risingEdge.wel = e.wel := by
  cases hcmd : e.command
  case readAddrLatched =>
    rw [risingEdge_of_readAddrLatched hcmd]
    exact ⟨rfl, rfl⟩
  case readStreaming =>
    rw [risingEdge_of_readStreaming hcmd]
    exact ⟨streamEdge_cells e, (apply_ite SerialEeprom.wel _ _ _).trans (ite_self _)⟩
  all_goals simp [hcmd, reading] at hr

/-- A rising edge changes cells only under the latch (R248 (a)). -/
theorem writeClock_cells (hcs : e.cs = true) (hck : e.ck = false) (hwel : e.wel = false) :
    (e.writeClock true).cells = e.cells := by
  cases hr : reading e.command
  · rw [writeClock_shift hcs hck hr]
    exact threshold_cells
      (e := { e with inSr := shiftIn e.inSr e.di, inCnt := e.inCnt + 1 }) hwel
  · rw [writeClock_edge hcs hck]
    exact (risingEdge_of_reading hr).1

/-- A rising edge changes the latch only at the thirteenth bit of WEN or WDS (R248 (b), (c)). -/
theorem writeClock_wel_of_ne (hcs : e.cs = true) (hck : e.ck = false)
    (h : (e.writeClock true).wel ≠ e.wel) :
    e.inCnt = 12
    ∧ ((e.command = .writeEnable ∧ (e.writeClock true).wel = true)
      ∨ (e.command = .writeDisable ∧ (e.writeClock true).wel = false)) := by
  cases hr : reading e.command
  case true =>
    rw [writeClock_edge hcs hck] at h
    exact absurd (risingEdge_of_reading hr).2 h
  case false =>
    have hcnt : e.inCnt = 12 := by
      by_contra hne
      rw [writeClock_shift hcs hck hr] at h
      refine h (threshold_wel (e := { e with inSr := shiftIn e.inSr e.di, inCnt := e.inCnt + 1 }) ?_)
      simpa using hne
    have hwel : (e.writeClock true).wel =
        if e.command = .writeEnable then true
        else if e.command = .writeDisable then false
        else e.wel := by
      rw [writeClock_thirteenth hcs hck hr hcnt rfl]
      exact addressDone_wel { e with inSr := shiftIn e.inSr e.di, inCnt := 13 }
    refine ⟨hcnt, ?_⟩
    rw [hwel] at h ⊢
    split_ifs at h ⊢ with hwen hwds
    · exact .inl ⟨hwen, rfl⟩
    · exact .inr ⟨hwds, rfl⟩
    · exact absurd rfl h

end Gate

/-- An operation that is neither a frame nor a rising edge of the selected controller writes neither the
array nor the latch. -/
theorem after_of_no_edge {op : Op} {s : State} (hframe : ∀ bits, op ≠ .eeFrame bits)
    (hedge : ¬(op = .eeClock true ∧ s.eeprom.cs = true ∧ s.eeprom.ck = false)) :
    (after op s).eeprom.cells = s.eeprom.cells ∧ (after op s).eeprom.wel = s.eeprom.wel := by
  cases hport : port op with
  | flash =>
    obtain ⟨heeprom, -⟩ := after_flash_outside hport s
    rw [heeprom]
    exact ⟨rfl, rfl⟩
  | card =>
    obtain ⟨c, image, io, out, hcard⟩ := after_card_frame hport s
    rw [hcard]
    exact ⟨rfl, rfl⟩
  | eeprom =>
    cases op with
    | eeSelect v =>
      rw [after, setEeprom_eeprom]
      exact ⟨writeSelect_cells _ v, writeSelect_wel _ v⟩
    | eeClock v =>
      have hlevel : ¬(s.eeprom.cs = true ∧ s.eeprom.ck = false ∧ v = true) := by
        rintro ⟨hcs, hck, rfl⟩
        exact hedge ⟨rfl, hcs, hck⟩
      rw [after, writeClock_no_edge hlevel]
      exact ⟨rfl, rfl⟩
    | eeFrame bits => exact absurd rfl (hframe bits)
    | eeData _ | eeReadData | eeReset => exact ⟨rfl, rfl⟩
    | _ => cases hport

/-- Settles O36: cells and latch are written by a rising edge alone, behind the gate of the latch. -/
theorem eepromWriteGate : Obligations.EepromWriteGate := by
  intro op s t hframe h
  obtain ⟨-, rfl⟩ := perform_next h
  by_cases hedge : op = .eeClock true ∧ s.eeprom.cs = true ∧ s.eeprom.ck = false
  · obtain ⟨rfl, hcs, hck⟩ := hedge
    refine ⟨fun hcells => ⟨rfl, hcs, hck, ?_⟩,
      fun hwel => ⟨rfl, hcs, hck, writeClock_wel_of_ne hcs hck hwel⟩⟩
    by_contra hunlatched
    exact hcells (writeClock_cells hcs hck (Bool.eq_false_of_not_eq_true hunlatched))
  · obtain ⟨hcells, hwel⟩ := after_of_no_edge hframe hedge
    exact ⟨absurd hcells, absurd hwel⟩

/-! ## The controller's invariant -/

/-! ### The commands a count allows -/

/-- A read is in progress only after its thirteenth bit. -/
theorem inCnt_of_reading {n : Nat} {c : EeCommand} (h : commandAt n c = true)
    (hr : reading c = true) : n = 13 := by
  unfold commandAt at h
  cases c
  case readAddrLatched | readStreaming =>
    split_ifs at h <;> first | assumption | cases h
  all_goals cases hr

theorem commandAt_of_sub_opcode {n : Nat} (h5 : 5 ≤ n) (h12 : n ≤ 12) (c : EeCommand) :
    commandAt n c = commandAt 12 c := by
  rw [commandAt, if_neg (by omega), if_neg (by omega), if_neg (by omega), if_pos h12]
  rfl

theorem commandAt_of_data {n : Nat} (h14 : 14 ≤ n) (h28 : n ≤ 28) (c : EeCommand) :
    commandAt n c = commandAt 28 c := by
  rw [commandAt, if_neg (by omega), if_neg (by omega), if_neg (by omega), if_neg (by omega),
    if_neg (by omega), if_pos h28]
  rfl

theorem inCnt_le_of_commandAt {n : Nat} {c : EeCommand} (h : commandAt n c = true) : n ≤ 28 := by
  unfold commandAt at h
  split_ifs at h <;> omega

/-- Away from the thresholds the next count allows the same commands. -/
theorem commandAt_succ {n : Nat} {c : EeCommand} (h : commandAt n c = true)
    (hr : reading c = false) (hn : n ∉ [0, 2, 4, 12, 28]) : commandAt (n + 1) c = true := by
  have hle := inCnt_le_of_commandAt h
  simp only [List.mem_cons, List.not_mem_nil, or_false, not_or] at hn
  have hrange : n = 1 ∨ n = 3 ∨ (5 ≤ n ∧ n ≤ 11) ∨ n = 13 ∨ (14 ≤ n ∧ n ≤ 27) := by omega
  rcases hrange with rfl | rfl | ⟨hlow, hhigh⟩ | rfl | ⟨hlow, hhigh⟩
  · exact h
  · exact h
  · rwa [commandAt_of_sub_opcode (by omega) (by omega),
      ← commandAt_of_sub_opcode hlow (by omega)]
  · have hwrite : (c == .write || c == .writeAll || reading c) = true := h
    rwa [hr, Bool.or_false] at hwrite
  · rwa [commandAt_of_data (by omega) (by omega), ← commandAt_of_data hlow (by omega)]

section Inv

variable {e : SerialEeprom}

/-- The invariant of a controller whose input register is empty. -/
theorem inv_of_empty (hsr : e.inSr = 0#29) (hcnt : e.inCnt = 0) (hr : reading e.command = false)
    (hout : e.outCnt < 16) : e.Inv := by
  refine ⟨?_, fun _ => hsr, fun hread => absurd (hr.symm.trans hread) Bool.false_ne_true, hout⟩
  rw [hcnt]
  simp [commandAt, hr]

/-- The invariant of a selected controller that has counted a bit. -/
theorem inv_of_counted (hcs : e.cs = true) (hcnt : e.inCnt ≠ 0)
    (hcmd : commandAt e.inCnt e.command = true) (hout : e.outCnt < 16) : e.Inv :=
  ⟨hcmd, fun hzero => absurd hzero hcnt, fun _ => hcs, hout⟩

theorem reading_of_deselected (h : e.Inv) (hcs : e.cs = false) : reading e.command = false := by
  obtain ⟨-, -, hsel, -⟩ := h
  by_contra hread
  exact absurd (hcs.symm.trans (hsel (Bool.eq_true_of_not_eq_false hread))) Bool.false_ne_true

/-! ### Each operation -/

theorem writeSelect_inv (h : e.Inv) (v : Bool) : (e.writeSelect v).Inv := by
  cases hcs : e.cs <;> cases v
  case false.false | true.true => rwa [SerialEeprom.writeSelect, if_pos hcs.symm]
  case false.true =>
    have hr := reading_of_deselected h hcs
    obtain ⟨hcmd, hsr, -, hout⟩ := h
    rw [writeSelect_rise hcs]
    cases hck : e.ck
    · exact inv_of_empty rfl rfl hr hout
    · exact ⟨hcmd, hsr, fun _ => rfl, hout⟩
  case true.false =>
    obtain ⟨hcmd, hsr, -, hout⟩ := h
    rw [writeSelect_fall hcs]
    cases hr : reading e.command
    case true =>
      rw [selectFall_of_reading hr]
      exact inv_of_empty rfl rfl rfl (Nat.succ_pos 15)
    case false =>
      by_cases hbusy : e.command = .busy
      · have hcnt : e.inCnt = 0 := by
          rw [hbusy] at hcmd
          unfold commandAt at hcmd
          split_ifs at hcmd <;> first | assumption | cases hcmd
        rw [selectFall_of_busy hbusy]
        exact inv_of_empty (hsr hcnt) hcnt rfl hout
      · rw [selectFall_of_other hr hbusy]
        exact ⟨hcmd, hsr, fun hread => absurd (hr.symm.trans hread) Bool.false_ne_true, hout⟩

/-- An edge of a read stream keeps the count at thirteen (R239, R240). -/
theorem readEdge_inv (h : e.Inv) (hcs : e.cs = true) (hck : e.ck = false)
    (hr : reading e.command = true) : (e.writeClock true).Inv := by
  obtain ⟨hcmd, -, -, hout⟩ := h
  have hcnt : e.inCnt = 13 := inCnt_of_reading hcmd hr
  have hpos : e.inCnt ≠ 0 := by omega
  have hstream : commandAt e.inCnt .readStreaming = true := hcnt ▸ rfl
  rw [writeClock_edge hcs hck]
  cases hread : e.command
  case readAddrLatched =>
    rw [risingEdge_of_readAddrLatched hread]
    exact inv_of_counted hcs hpos hstream (Nat.succ_pos 15)
  case readStreaming =>
    rw [hread] at hcmd
    rw [risingEdge_of_readStreaming hread, SerialEeprom.streamEdge]
    split_ifs with hlast
    · exact inv_of_counted hcs hpos (by rwa [hread]) (Nat.succ_pos 15)
    · exact inv_of_counted hcs hpos (by rwa [hread]) (by simp only; omega)
  all_goals simp [hread, reading] at hr

theorem subOpcodeEdge_inv (h : e.Inv) (hcs : e.cs = true) (hck : e.ck = false)
    (hr : reading e.command = false) (hcnt : e.inCnt = 4) : (e.writeClock true).Inv := by
  obtain ⟨hcmd, -, -, hout⟩ := h
  rw [hcnt] at hcmd
  rw [writeClock_fifth hcs hck hr hcnt (subOpcode_eq _)]
  refine inv_of_counted hcs (Nat.succ_ne_zero 4) ?_ hout
  cases hc : e.command <;> rw [hc] at hcmd
  case none =>
    simp only [ne_eq, not_true_eq_false, if_false]
    split_ifs <;> rfl
  case read | write | erase => rfl
  all_goals cases hcmd

/-- After the thirteenth bit a command is done, a READ waits for its dummy edge, or data follow (R232). -/
theorem addressEdge_inv (h : e.Inv) (hcs : e.cs = true) (hck : e.ck = false)
    (hr : reading e.command = false) (hcnt : e.inCnt = 12) : (e.writeClock true).Inv := by
  obtain ⟨hcmd, -, -, hout⟩ := h
  rw [hcnt] at hcmd
  have hedge {f} := writeClock_thirteenth hcs hck hr hcnt (f := f)
  cases hc : e.command
  case write | writeAll =>
    rw [hedge (addressDone_of_no_action rfl (by simp [hc]))]
    exact inv_of_counted hcs (Nat.succ_ne_zero 12) (by rw [hc]; rfl) hout
  case read =>
    rw [hedge (addressDone_of_read rfl hc)]
    exact inv_of_counted hcs (Nat.succ_ne_zero 12) rfl hout
  case writeEnable =>
    rw [hedge (addressDone_of_enable rfl (.inl hc))]
    exact inv_of_empty rfl rfl rfl hout
  case writeDisable =>
    rw [hedge (addressDone_of_enable rfl (.inr hc))]
    exact inv_of_empty rfl rfl rfl hout
  case eraseAll =>
    cases hwel : e.wel
    · rw [hedge (addressDone_of_erase_unlatched rfl (.inl hc) hwel)]
      exact inv_of_empty rfl rfl rfl hout
    · rw [hedge (addressDone_of_eraseAll rfl hc hwel)]
      exact inv_of_empty rfl rfl rfl hout
  case erase =>
    cases hwel : e.wel
    · rw [hedge (addressDone_of_erase_unlatched rfl (.inr hc) hwel)]
      exact inv_of_empty rfl rfl rfl hout
    · rw [hedge (addressDone_of_erase rfl hc hwel)]
      exact inv_of_empty rfl rfl rfl hout
  all_goals
    rw [hc] at hcmd
    cases hcmd

/-- After the twenty-ninth bit no count is left (R241, R242). -/
theorem dataEdge_inv (h : e.Inv) (hcs : e.cs = true) (hck : e.ck = false)
    (hr : reading e.command = false) (hcnt : e.inCnt = 28) : (e.writeClock true).Inv := by
  obtain ⟨hcmd, -, -, hout⟩ := h
  rw [hcnt] at hcmd
  have hedge {f} := writeClock_twentyninth hcs hck hr hcnt (f := f)
  cases hc : e.command
  case write =>
    cases hwel : e.wel
    · rw [hedge (dataDone_of_unlatched (.inl hc) hwel)]
      exact inv_of_empty rfl rfl rfl hout
    · rw [hedge (dataDone_of_write rfl hc hwel)]
      exact inv_of_empty rfl rfl rfl hout
  case writeAll =>
    cases hwel : e.wel
    · rw [hedge (dataDone_of_unlatched (.inr hc) hwel)]
      exact inv_of_empty rfl rfl rfl hout
    · rw [hedge (dataDone_of_writeAll rfl hc hwel)]
      exact inv_of_empty rfl rfl rfl hout
  all_goals
    rw [hc] at hcmd
    cases hcmd

/-- A bit shifted in, at each of the thresholds and between them. -/
theorem shiftEdge_inv (h : e.Inv) (hcs : e.cs = true) (hck : e.ck = false)
    (hr : reading e.command = false) : (e.writeClock true).Inv := by
  have ⟨hcmd, _, _, hout⟩ := h
  by_cases hbetween : e.inCnt ∉ [0, 2, 4, 12, 28]
  · rw [writeClock_between hcs hck hr hbetween]
    exact inv_of_counted hcs (Nat.succ_ne_zero _) (commandAt_succ hcmd hr hbetween) hout
  simp only [not_not, List.mem_cons, List.not_mem_nil, or_false] at hbetween
  rcases hbetween with hcnt | hcnt | hcnt | hcnt | hcnt
  · rw [writeClock_first hcs hck hr hcnt]
    cases e.di
    · exact inv_of_empty rfl rfl hr hout
    · exact inv_of_counted hcs Nat.one_ne_zero rfl hout
  · rw [hcnt] at hcmd
    have hnone : e.command = .none := eq_of_beq hcmd
    rw [writeClock_third hcs hck hr hcnt (opcodeClass_eq _)]
    refine inv_of_counted hcs (Nat.succ_ne_zero 2) ?_ hout
    simp only [hnone]
    split_ifs <;> rfl
  · exact subOpcodeEdge_inv h hcs hck hr hcnt
  · exact addressEdge_inv h hcs hck hr hcnt
  · exact dataEdge_inv h hcs hck hr hcnt

theorem writeClock_inv (h : e.Inv) (v : Bool) : (e.writeClock v).Inv := by
  by_cases hedge : e.cs = true ∧ e.ck = false ∧ v = true
  · obtain ⟨hcs, hck, rfl⟩ := hedge
    cases hr : reading e.command
    · exact shiftEdge_inv h hcs hck hr
    · exact readEdge_inv h hcs hck hr
  · rw [writeClock_no_edge hedge]
    exact h

theorem clockBits_inv (h : e.Inv) (bits : List Bool) : (e.clockBits bits).Inv := by
  induction bits generalizing e with
  | nil => exact h
  | cons b bits ih =>
    have hdata : (e.writeData b).Inv := h
    exact ih (writeClock_inv (writeClock_inv hdata true) false)

end Inv

/-- Every operation keeps the controller's invariant. -/
theorem after_eeprom_inv (op : Op) {s : State} (h : s.eeprom.Inv) : (after op s).eeprom.Inv := by
  cases hport : port op with
  | flash =>
    obtain ⟨heeprom, -⟩ := after_flash_outside hport s
    rwa [heeprom]
  | card =>
    obtain ⟨c, image, io, out, hframe⟩ := after_card_frame hport s
    rwa [hframe]
  | eeprom =>
    cases op with
    | eeSelect v => exact writeSelect_inv h v
    | eeClock v => exact writeClock_inv h v
    | eeFrame bits => exact clockBits_inv h bits
    | eeReset => exact inv_of_empty rfl rfl rfl (Nat.succ_pos 15)
    | eeData _ | eeReadData => exact h
    | _ => cases hport

/-- Settles O55: a step is one operation, and every operation keeps the controller's invariant. -/
theorem eepromInvariantKept : Obligations.EepromInvariantKept := by
  intro s t h hstep
  rcases step_next hstep with ⟨-, rfl⟩ | ⟨op, rest, -, -, rfl⟩
  · exact h
  · exact after_eeprom_inv op h

end Sys2Proof.Proofs

/-! The SPI card (spec/44_spi_card.md): the command framer, the commands of whole frames, the bytes of a block
write, the byte output, and the card's invariant. -/

namespace Sys2Proof.Proofs

open Laws.UnitOfEngine (port)
open Machine Laws

/-! ## A row as an operation of the card -/

section Rows

variable {i : Instr} {s : State}

theorem exec_of_dataWrite {t : State} {b : Byte} (hop : encode i = .sdWrite b)
    (h : s.dataWrite b = t) : exec i s = .next t := by
  subst h
  rw [exec_eq_perform, hop]
  rfl

theorem exec_of_dataRead {c : SpiCard} {v : Byte} (hop : encode i = .sdRead)
    (hcard : s.card.afterRead s.cfg = c) (hbyte : s.card.readByte s.cfg = v) :
    exec i s = .next { s with card := c, outputs := s.outputs ++ [.byte v] } := by
  subst hcard hbyte
  rw [exec_eq_perform, hop]
  rfl

end Rows

/-! ## Byte output -/

section Output

variable {c : SpiCard}

theorem afterRead_of_returnWrite (h : c.state = .returnWrite) (cfg : Config) :
    c.afterRead cfg = { c with state := .idle } := by
  simp only [SpiCard.afterRead, h, SpiCard.afterReturnWrite]

theorem afterRead_of_reset {step : Fin 6} (h : c.state = .reset step) (cfg : Config) :
    c.afterRead cfg = c.afterReset step := by
  simp only [SpiCard.afterRead, h]

theorem afterRead_of_init (h : c.state = .init) (cfg : Config) :
    c.afterRead cfg = { c with state := .idle } := by
  simp only [SpiCard.afterRead, h, SpiCard.afterInit]

theorem afterRead_of_stream (h : c.state = .read ∨ c.state = .dummyRead) (cfg : Config) :
    c.afterRead cfg = c.afterStream cfg := by
  rcases h with h | h <;> simp only [SpiCard.afterRead, h]

theorem afterRead_of_queue (h : c.state = .idle ∨ c.state = .write ∨ c.state = .dummyWrite)
    (cfg : Config) : c.afterRead cfg = { c with resp := c.resp.tail } := by
  rcases h with h | h | h <;> simp only [SpiCard.afterRead, h, SpiCard.afterIdle]

theorem readByte_of_returnWrite (h : c.state = .returnWrite) (cfg : Config) :
    c.readByte cfg = 0xFF#8 := by
  simp only [SpiCard.readByte, h]

theorem readByte_of_reset {step : Fin 6} (h : c.state = .reset step) (cfg : Config) :
    c.readByte cfg = resetSequence[step] := by
  simp only [SpiCard.readByte, h]

theorem readByte_of_init (h : c.state = .init) (cfg : Config) : c.readByte cfg = 0x00#8 := by
  simp only [SpiCard.readByte, h]

theorem readByte_of_stream (h : c.state = .read ∨ c.state = .dummyRead) (cfg : Config) :
    c.readByte cfg = c.streamByte cfg := by
  rcases h with h | h <;> simp only [SpiCard.readByte, h]

theorem readByte_of_queue (h : c.state = .idle ∨ c.state = .write ∨ c.state = .dummyWrite)
    (cfg : Config) : c.readByte cfg = c.resp.headD 0x00#8 := by
  rcases h with h | h | h <;> simp only [SpiCard.readByte, h]

end Output

/-- The first entry of a queue, with the value of an empty one. -/
theorem headD_eq_getD {α : Type} (l : List α) (d : α) : l.headD d = l.getD 0 d := by
  cases l <;> rfl

theorem resetSequence_getElem (step : Fin 6) :
    resetSequence[step] =
      [0x00#8, 0x01#8, 0x01#8, 0x00#8, 0x01#8, 0x01#8].getD step.val 0#8 := by
  fin_cases step <;> rfl

/-- The step after a reset byte, with the bound of the step written as 10_state.md R52 has it. -/
theorem afterReset_eq (c : SpiCard) (step : Fin 6) :
    c.afterReset step =
      { c with state := if h : step.val + 1 < 6 then .reset ⟨step.val + 1, h⟩ else .idle } := by
  simp only [SpiCard.afterReset, Nat.add_lt_iff_lt_sub_right (b := 1) (c := 6)]

/-- Settles O44: each read is the branch of the byte output that the state selects. -/
theorem cardStatusReads : Obligations.CardStatusReads := by
  intro s
  refine ⟨fun step h => ?_, fun h => ?_, fun h => ?_⟩
  · exact exec_of_dataRead rfl ((afterRead_of_reset h s.cfg).trans (afterReset_eq _ _))
      ((readByte_of_reset h s.cfg).trans (resetSequence_getElem step))
  · exact exec_of_dataRead rfl (afterRead_of_init h s.cfg) (readByte_of_init h s.cfg)
  · rw [List.drop_one, ← headD_eq_getD]
    exact exec_of_dataRead rfl (afterRead_of_queue h s.cfg) (readByte_of_queue h s.cfg)

/-! ## The read stream -/

/-- The whole stream of R302: the preamble, the block, the trailer. -/
def streamBytes (c : SpiCard) (cfg : Config) : List Byte :=
  [0xFF#8, 0xFE#8, 0xFE#8].take (preambleLength cfg.triggerMode) ++ c.readBuffer ++ trailer cfg

theorem preambleLength_mem (t : TriggerMode) : preambleLength t = 2 ∨ preambleLength t = 3 := by
  cases t
  · exact .inr rfl
  · exact .inl rfl

/-- The preamble is one 0xFF and then 0xFE. -/
theorem preamble_getD (t : TriggerMode) {p : Nat} (h : p < preambleLength t) :
    ([0xFF#8, 0xFE#8, 0xFE#8].take (preambleLength t)).getD p 0#8 =
      if p = 0 then 0xFF#8 else 0xFE#8 := by
  cases t <;> rw [preambleLength] at h ⊢ <;> interval_cases p <;> rfl

/-- Inside the stream the byte read is the stream's byte at the position. -/
theorem streamByte_eq_getD {c : SpiCard} {cfg : Config}
    (hlen : c.readBuffer.length = c.blockSize.toNat)
    (hpos : c.readPos < streamLength cfg c.blockSize) :
    c.streamByte cfg = (streamBytes c cfg).getD c.readPos 0#8 := by
  have hpre : ([0xFF#8, 0xFE#8, 0xFE#8].take (preambleLength cfg.triggerMode)).length
      = preambleLength cfg.triggerMode := by
    rcases preambleLength_mem cfg.triggerMode with h | h <;> rw [h] <;> rfl
  have hpos0 : 0 < preambleLength cfg.triggerMode := by
    rcases preambleLength_mem cfg.triggerMode with h | h <;> omega
  rw [streamLength] at hpos
  unfold SpiCard.streamByte streamBytes
  simp only
  rcases Nat.lt_or_ge c.readPos (preambleLength cfg.triggerMode) with hin | hpast
  · rw [List.append_assoc, List.getD_append _ _ _ _ (hpre.symm ▸ hin), preamble_getD _ hin,
      if_pos hin]
  · rw [if_neg (by omega), if_neg (by omega)]
    rcases Nat.lt_or_ge c.readPos (preambleLength cfg.triggerMode + c.blockSize.toNat) with hin | hend
    · rw [if_pos hin, List.append_assoc, List.getD_append_right _ _ _ _ (hpre.symm ▸ hpast), hpre,
        List.getD_append _ _ _ _ (by omega)]
    · rw [if_neg (by omega), List.getD_append_right _ _ _ _ (by rw [List.length_append]; omega),
        List.length_append, hpre, hlen, Nat.sub_add_eq, List.getD_eq_getElem _ _ (by omega),
        List.getD_eq_getElem _ _ (by omega)]

theorem afterStream_eq (c : SpiCard) (cfg : Config) :
    c.afterStream cfg =
      { c with readPos :=
          if c.readPos + 1 < streamLength cfg c.blockSize then c.readPos + 1 else c.readPos } := by
  unfold SpiCard.afterStream
  split_ifs <;> rfl

/-- Settles O45: the two trigger modes differ in the preamble's length and the trailer only. -/
theorem cardStreamRead : Obligations.CardStreamRead := by
  intro s h tr hstate hlen hread hwrite hpos
  obtain ⟨rfl, rfl⟩ : h = preambleLength s.cfg.triggerMode ∧ tr = trailer s.cfg := by
    unfold trailer
    cases hmode : s.cfg.triggerMode
    · exact hread hmode
    · exact hwrite hmode
  exact ⟨_, rfl, exec_of_dataRead rfl ((afterRead_of_stream hstate s.cfg).trans (afterStream_eq _ _))
    ((readByte_of_stream hstate s.cfg).trans (streamByte_eq_getD hlen hpos))⟩

/-! ## Block write -/

section Block

variable {s : State}

theorem dataWrite_block (h : s.card.state = .write ∨ s.card.state = .dummyWrite) (b : Byte) :
    s.dataWrite b = s.blockByte b := by
  rcases h with h | h <;> simp only [State.dataWrite, h]

theorem blockByte_of_waitToken (h : s.card.writePhase = .waitToken) (b : Byte) :
    s.blockByte b = s.tokenByte b := by
  simp only [State.blockByte, h]

theorem blockByte_of_data {k : Nat} (h : s.card.writePhase = .data k) (b : Byte) :
    s.blockByte b = s.dataByte k b := by
  simp only [State.blockByte, h]

theorem blockByte_of_crc {j : Fin 2} (h : s.card.writePhase = .crc j) (b : Byte) :
    s.blockByte b = s.crcByte j := by
  simp only [State.blockByte, h]

/-- The commit in `Write` with a card asks the image to take the block (R309, decision D63). -/
theorem commitBlock_of_write (hstate : s.card.state = .write) (hcard : s.cfg.cardPresent = true) :
    s.commitBlock =
      { s with
        ioFail := s.ioFail.drop 1
        image :=
          if s.ioFail.getD 0 false = false ∧ s.card.imageCursor.toNat
              + (s.card.writeBuffer.take s.card.blockSize.toNat).length ≤ s.cfg.imgLen
            then s.image.writeRange s.card.imageCursor.toNat
              (s.card.writeBuffer.take s.card.blockSize.toNat)
            else s.image
        card := { s.card with writePhase := .crc 0 } } := by
  simp only [State.commitBlock, if_pos (And.intro hstate hcard), imgWrite_eq, headD_eq_getD,
    Bool.and_eq_true, Bool.not_eq_true', decide_eq_true_eq, List.drop_one]
  rfl

/-- The commit in `DummyWrite` or without a card only moves the phase on. -/
theorem commitBlock_of_no_write (h : s.card.state = .write → s.cfg.cardPresent = false) :
    s.commitBlock = { s with card := { s.card with writePhase := .crc 0 } } := by
  have hno : ¬(s.card.state = .write ∧ s.cfg.cardPresent = true) := by
    rintro ⟨hstate, hcard⟩
    rw [h hstate] at hcard
    cases hcard
  simp only [State.commitBlock, if_neg hno]
  rfl

/-- Whatever the image answers, the commit moves the card to the first CRC byte and nothing else of it. -/
theorem commitBlock_card (s : State) :
    s.commitBlock.card = { s.card with writePhase := .crc 0 } := by
  obtain ⟨io, ok, hcommit, -⟩ := commitBlock_eq s
  rw [hcommit]

end Block

/-- Settles O43: each CRC byte is a branch of the block-write machine. -/
theorem cardCrcAndReturn : Obligations.CardCrcAndReturn := by
  intro s b
  refine ⟨fun hstate hphase => ?_, fun hstate hphase => ?_, fun hstate => ?_⟩
  · exact exec_of_dataWrite rfl ((dataWrite_block hstate b).trans (blockByte_of_crc hphase b))
  · exact exec_of_dataWrite rfl ((dataWrite_block hstate b).trans (blockByte_of_crc hphase b))
  · exact exec_of_dataRead rfl (afterRead_of_returnWrite hstate s.cfg)
      (readByte_of_returnWrite hstate s.cfg)

/-- The commit of an empty block changes no byte of the image, in or out of it. -/
theorem commitBlock_of_empty {s : State} (h : s.card.blockSize = 0#32) :
    s.commitBlock =
      { s with
        ioFail := if s.card.state = .write ∧ s.cfg.cardPresent = true
          then s.ioFail.drop 1 else s.ioFail
        card := { s.card with writePhase := .crc 0 } } := by
  by_cases hwrite : s.card.state = .write ∧ s.cfg.cardPresent = true
  · have hempty : s.card.writeBuffer.take s.card.blockSize.toNat = [] := by rw [h]; rfl
    rw [commitBlock_of_write hwrite.1 hwrite.2, if_pos hwrite, hempty]
    simp only [Memory.writeRange, ite_self]
  · rw [commitBlock_of_no_write fun hstate => by simpa [hstate] using hwrite, if_neg hwrite]

/-- The card with the token of a block received. -/
def openedBlock (s : State) : State := s.setCard { s.card with writePhase := .data 0 }

/-- The token opens the block, and an empty block is committed at once. -/
theorem tokenByte_token (s : State) :
    s.tokenByte 0xFE#8 =
      { s with
        ioFail :=
          if s.card.blockSize = 0#32 ∧ s.card.state = .write ∧ s.cfg.cardPresent = true
            then s.ioFail.drop 1 else s.ioFail
        card := { s.card with
          writePhase := if s.card.blockSize = 0#32 then .crc 0 else .data 0 } } := by
  have htoken : s.tokenByte 0xFE#8 =
      if s.card.blockSize = 0#32 then (openedBlock s).commitBlock else openedBlock s := if_pos rfl
  rw [htoken]
  by_cases hempty : s.card.blockSize = 0#32
  · rw [if_pos hempty, commitBlock_of_empty (s := openedBlock s) hempty]
    simp only [if_pos hempty, and_iff_right hempty]
    rfl
  · simp only [hempty, if_false, false_and]
    rfl

/-- The card with one more byte of its block buffered. -/
def storedByte (s : State) (k : Nat) (b : Byte) : State :=
  s.setCard { s.card with writeBuffer := storeAt s.card.writeBuffer k b, writePhase := .data (k + 1) }

theorem dataByte_inside {s : State} {k : Nat} (h : k + 1 ≠ s.card.blockSize.toNat) (b : Byte) :
    s.dataByte k b = storedByte s k b := if_neg h

theorem dataByte_last {s : State} {k : Nat} (h : k + 1 = s.card.blockSize.toNat) (b : Byte) :
    s.dataByte k b = (storedByte s k b).commitBlock := if_pos h

/-- The last data byte in `Write` with a card: the whole block goes to the image at the cursor if the call
succeeds and the block lies in the image. -/
theorem dataByte_last_write {s : State} {k : Nat} (h : k + 1 = s.card.blockSize.toNat)
    (hk : k ≤ s.card.writeBuffer.length) (hstate : s.card.state = .write)
    (hcard : s.cfg.cardPresent = true) (b : Byte) :
    s.dataByte k b =
      { s with
        ioFail := s.ioFail.drop 1
        image :=
          if s.ioFail.getD 0 false = false ∧ s.card.imageCursor.toNat + (k + 1) ≤ s.cfg.imgLen
            then s.image.writeRange s.card.imageCursor.toNat
              ((storeAt s.card.writeBuffer k b).take (k + 1))
            else s.image
        card := { s.card with
          writeBuffer := storeAt s.card.writeBuffer k b, writePhase := .crc 0 } } := by
  have htake := List.length_take_of_le (storeAt_length hk b)
  rw [dataByte_last h, commitBlock_of_write (s := storedByte s k b) hstate hcard]
  simp only [storedByte, setCard_card, setCard_cfg, setCard_image, setCard_ioFail, ← h, htake]
  rfl

/-- The array of an image that takes the first `n` bytes of a buffer. -/
theorem read_writeRange_take {m : Memory} (hm : m.wf = true) (lo : Nat) {bytes : List Byte} {n : Nat}
    (hn : n ≤ bytes.length) (x : Nat) :
    (m.writeRange lo (bytes.take n)).read x =
      if lo ≤ x ∧ x < lo + n then bytes.getD (x - lo) 0#8 else m.read x := by
  rw [read_writeRange hm, List.length_take_of_le hn]
  split_ifs with hx
  · have hlt : x - lo < n := by omega
    simp only [List.getD_eq_getElem?_getD, List.getElem?_take_of_lt hlt]
  · rfl

/-- Settles O42: a data byte is stored at its index, and the last one commits the buffered block. -/
theorem cardBlockBytes : Obligations.CardBlockBytes := by
  refine ⟨fun s hstate hphase => ?_, fun s b k hstate hphase hk hwf => ?_⟩
  · exact exec_of_dataWrite rfl
      ((dataWrite_block hstate _).trans ((blockByte_of_waitToken hphase _).trans (tokenByte_token s)))
  have hbyte : s.dataWrite b = s.dataByte k b :=
    (dataWrite_block hstate b).trans (blockByte_of_data hphase b)
  have hlen := storeAt_length hk b
  refine ⟨storeAt s.card.writeBuffer k b,
    s.image.writeRange s.card.imageCursor.toNat ((storeAt s.card.writeBuffer k b).take (k + 1)),
    storeAt_getD hk b, writeRange_wf hwf _ _, read_writeRange_take hwf _ hlen,
    fun hinside => ?_, fun hlast hw hc hio hfit => ?_, fun hlast hw hc hfail => ?_,
    fun hlast hno => ?_⟩
  · exact exec_of_dataWrite rfl (hbyte.trans (dataByte_inside hinside b))
  · rw [exec_of_dataWrite rfl (hbyte.trans (dataByte_last_write hlast hk hw hc b)),
      if_pos ⟨hio, hfit⟩]
  · have hno : ¬(s.ioFail.getD 0 false = false
        ∧ s.card.imageCursor.toNat + (k + 1) ≤ s.cfg.imgLen) := by
      rintro ⟨hio, hfit⟩
      rcases hfail with htrue | hbeyond
      · rw [hio] at htrue
        cases htrue
      · omega
    rw [exec_of_dataWrite rfl (hbyte.trans (dataByte_last_write hlast hk hw hc b)), if_neg hno]
  · have hno_write : s.card.state = .write → s.cfg.cardPresent = false := by
      rcases hno with hdummy | habsent
      · exact fun hw => by rw [hw] at hdummy; cases hdummy
      · exact fun _ => habsent
    exact exec_of_dataWrite rfl (hbyte.trans ((dataByte_last hlast b).trans
      (commitBlock_of_no_write (s := storedByte s k b) hno_write)))

/-! ## The card does not look at the pending operations -/

/-- The state with other pending operations. -/
def withInputs (s : State) (ops : List Op) : State := { s with inputs := ops }

section Inputs

variable (s : State) (ops : List Op)

theorem setCard_withInputs (c : SpiCard) :
    (withInputs s ops).setCard c = withInputs (s.setCard c) ops := rfl

theorem runCommand_withInputs (c : Byte) (arg : BitVec 32) :
    (withInputs s ops).runCommand c arg = withInputs (s.runCommand c arg) ops := by
  have h17 : (withInputs s ops).cmd17 arg = withInputs (s.cmd17 arg) ops := by
    rw [cmd17_eq, cmd17_eq]
    rfl
  have h24 : (withInputs s ops).cmd24 arg = withInputs (s.cmd24 arg) ops := by
    rw [cmd24_eq, cmd24_eq]
    rfl
  simp only [State.runCommand, h17, h24, setCard_withInputs, ← apply_ite (withInputs · ops)]
  rfl

theorem clearCmd_withInputs :
    (withInputs s ops).setCard (withInputs s ops).card.clearCmd =
      withInputs (s.setCard s.card.clearCmd) ops := rfl

theorem dispatch_withInputs : (withInputs s ops).dispatch = withInputs s.dispatch ops :=
  (congrArg (fun t : State => t.setCard t.card.clearCmd)
    (runCommand_withInputs (s.setCard { s.card with resp := [] }) ops s.card.cmdBuf[1]
      s.card.arg)).trans (clearCmd_withInputs _ ops)

theorem frameByte_withInputs (b : Byte) :
    (withInputs s ops).frameByte b = withInputs (s.frameByte b) ops := by
  simp only [State.frameByte, setCard_withInputs, dispatch_withInputs, apply_ite (withInputs · ops)]
  rfl

theorem commitBlock_withInputs : (withInputs s ops).commitBlock = withInputs s.commitBlock ops := by
  by_cases hwrite : s.card.state = .write ∧ s.cfg.cardPresent = true
  · obtain ⟨hstate, hcard⟩ := hwrite
    rw [commitBlock_of_write (s := s) hstate hcard,
      commitBlock_of_write (s := withInputs s ops) hstate hcard]
    rfl
  · have hno : s.card.state = .write → s.cfg.cardPresent = false := by simpa using hwrite
    rw [commitBlock_of_no_write (s := s) hno, commitBlock_of_no_write (s := withInputs s ops) hno]
    rfl

theorem blockByte_withInputs (b : Byte) :
    (withInputs s ops).blockByte b = withInputs (s.blockByte b) ops := by
  cases hphase : s.card.writePhase with
  | waitToken =>
    rw [blockByte_of_waitToken (s := s) hphase, blockByte_of_waitToken (s := withInputs s ops) hphase]
    simp only [State.tokenByte, setCard_withInputs, commitBlock_withInputs,
      apply_ite (withInputs · ops)]
    rfl
  | data k =>
    rw [blockByte_of_data (s := s) hphase, blockByte_of_data (s := withInputs s ops) hphase]
    simp only [State.dataByte, setCard_withInputs, commitBlock_withInputs,
      apply_ite (withInputs · ops)]
    rfl
  | crc j =>
    rw [blockByte_of_crc (s := s) hphase, blockByte_of_crc (s := withInputs s ops) hphase]
    simp only [State.crcByte, setCard_withInputs, apply_ite (withInputs · ops)]
    rfl

theorem dataWrite_withInputs (b : Byte) :
    (withInputs s ops).dataWrite b = withInputs (s.dataWrite b) ops := by
  by_cases hblock : s.card.state = .write ∨ s.card.state = .dummyWrite
  · rw [dataWrite_block (s := s) hblock, dataWrite_block (s := withInputs s ops) hblock]
    exact blockByte_withInputs s ops b
  · obtain ⟨hw, hd⟩ := not_or.mp hblock
    rw [dataWrite_frame (s := s) hw hd, dataWrite_frame (s := withInputs s ops) hw hd]
    exact frameByte_withInputs s ops b

end Inputs

/-- A pending byte is written first. -/
theorem core_run_sdWrite (s : State) (b : Byte) (rest : List Op) (n : Nat) :
    Host.Core.run Sys2Proof.core (n + 1) (withInputs s (.sdWrite b :: rest)) =
      Host.Core.run Sys2Proof.core n (withInputs (s.dataWrite b) rest) := by
  rw [← dataWrite_withInputs]
  exact core_run_op rfl rfl n

/-- Bytes written one after the other are their run. -/
theorem core_run_bytes (s : State) (bytes : List Byte) (rest : List Op) :
    Host.Core.run Sys2Proof.core bytes.length (withInputs s (bytes.map .sdWrite ++ rest)) =
      .next (withInputs (s.dataWrites bytes) rest) := by
  induction bytes generalizing s with
  | nil => rfl
  | cons b bytes ih =>
    rw [List.length_cons, List.map_cons, List.cons_append, core_run_sdWrite, ih]
    rfl

theorem dataWrites_withInputs (s : State) (ops : List Op) (bytes : List Byte) :
    (withInputs s ops).dataWrites bytes = withInputs (s.dataWrites bytes) ops := by
  induction bytes generalizing s with
  | nil => rfl
  | cons b bytes ih =>
    calc (withInputs s ops).dataWrites (b :: bytes)
        = ((withInputs s ops).dataWrite b).dataWrites bytes := rfl
      _ = (withInputs (s.dataWrite b) ops).dataWrites bytes := by rw [dataWrite_withInputs]
      _ = withInputs ((s.dataWrite b).dataWrites bytes) ops := ih (s.dataWrite b)

/-! ## The command framer -/

section Framer

variable {s : State}

theorem frameByte_before_sync (h0 : s.card.cmdIdx = 0) {b : Byte} (hb : b ≠ 0xFF#8) :
    s.frameByte b = s := by
  simp only [State.frameByte, if_pos h0, if_neg hb]

theorem frameByte_repeated_sync (h1 : s.card.cmdIdx = 1) : s.frameByte 0xFF#8 = s := by
  simp only [State.frameByte, h1, Nat.one_ne_zero, if_false, and_self, if_true]

theorem buffered_self {k : Nat} (h : s.card.cmdIdx = k) : buffered s s.card.cmdBuf k = s := by
  subst h
  rfl

end Framer

theorem frameNeed_eq_nine {c : Byte} (h : c = 0x48#8 ∨ c = 0x49#8 ∨ c = 0x4A#8 ∨ c = 0x50#8) :
    frameNeed c = 9 := if_pos h

/-- Settles O37: each byte is one branch of the framer, and a run of bytes is a fold of single ones. -/
theorem cardFramer : Obligations.CardFramer := by
  refine ⟨fun s b hw hd => ⟨fun h0 hb => ?_, fun h0 hb => ?_, fun h1 hb => ?_,
    fun k hk hk0 hsync hshort => ?_⟩, fun s bytes rest => ?_⟩
  · exact congrArg Host.Outcome.next
      ((dataWrite_frame hw hd b).trans (frameByte_before_sync h0 hb))
  · subst hb
    exact congrArg Host.Outcome.next (dataWrite_sync ⟨h0, hw, hd⟩)
  · subst hb
    exact congrArg Host.Outcome.next ((dataWrite_frame hw hd _).trans (frameByte_repeated_sync h1))
  · have hmore : k.val + 1 < 6 ∨ (k.val ≠ 1 ∧ k.val + 1 < frameNeed s.card.cmdBuf[1]) := by
      rcases hshort with hlt | ⟨hlt, hnine⟩
      · exact .inl (Nat.succ_lt_succ hlt)
      · rw [frameNeed_eq_nine hnine]
        omega
    have hwrite := dataWrite_buffer s s.card.cmdBuf b k.val k.isLt hw hd hk0 hsync hmore
    rw [buffered_self hk] at hwrite
    exact congrArg Host.Outcome.next hwrite
  · have hframe := stepPerformsTheOperation (withInputs s (.sdFrame bytes :: rest)) _ rest rfl
    refine (core_run_bytes s bytes rest).trans (Eq.trans ?_ hframe.symm)
    exact congrArg Host.Outcome.next (dataWrites_withInputs s rest bytes).symm

/-! ## The commands -/

section Commands

variable {i : Instr} {s : State} {c : Byte} {arg : BitVec 32}

/-- The state in which a command of a whole frame of `n` bytes runs (R280): the frame buffered, an unread
response discarded. -/
def received (s : State) (buf : Vector Byte 9) (n : Nat) : State :=
  s.setCard { s.card with cmdBuf := buf, cmdIdx := n, resp := [] }

/-- A six-byte frame to a listening card: what its command does, and the framer empty as before. -/
theorem exec_of_sixByteFrame {buf : Vector Byte 9} {t : State} (h : s.card.Listening)
    (hop : encode i = .sdFrame (0xFF#8 :: c :: argBytes arg)) (hc : c ≠ 0xFF#8)
    (hn : frameNeed c = 6) (hbuf : frameBuffer s.card.cmdBuf ([0xFF#8, c] ++ argBytes arg) = buf)
    (hrun : (received s buf 6).runCommand c arg = t) :
    exec i s = .next { t with card := { t.card with cmdIdx := s.card.cmdIdx } } := by
  subst hrun hbuf
  rw [exec_eq_perform, hop, h.1]
  exact cardFrame_six h arg hc hn

/-- A nine-byte frame to a listening card. -/
theorem exec_of_nineByteFrame {buf : Vector Byte 9} {t : State} {crc : Byte} {x : BitVec 16}
    (h : s.card.Listening)
    (hop : encode i = .sdFrame (0xFF#8 :: c :: (argBytes arg ++ [crc, highByte x, lowByte x])))
    (hn : frameNeed c = 9)
    (hbuf : frameBuffer s.card.cmdBuf
      ([0xFF#8, c] ++ argBytes arg ++ [crc, x.extractLsb' 8 8, x.extractLsb' 0 8]) = buf)
    (hrun : (received s buf 9).runCommand c arg = t) :
    exec i s = .next { t with card := { t.card with cmdIdx := s.card.cmdIdx } } := by
  subst hrun hbuf
  rw [exec_eq_perform, hop, h.1]
  exact cardFrame_nine h arg crc (highByte x) (lowByte x) hn

theorem runCommand_unknown (hc : c ∉ knownCommands) (s : State) (arg : BitVec 32) :
    s.runCommand c arg = s.setCard s.card.unknown := by
  simp only [knownCommands, List.mem_cons, List.not_mem_nil, or_false, not_or] at hc
  simp only [State.runCommand, hc, if_false]

theorem frameNeed_unknown (hc : c ∉ knownCommands) : frameNeed c = 6 := by
  simp only [knownCommands, List.mem_cons, List.not_mem_nil, or_false, not_or] at hc
  simp only [frameNeed, hc, or_false, if_false]

/-- CMD9 and CMD10 answer with the register of the card (R285, R286). -/
theorem runCommand_register_of_card (hcard : s.cfg.cardPresent = true) (arg : BitVec 32) :
    s.runCommand 0x49#8 arg =
        s.setCard (s.card.respond (respFor s.cfg.respCmd9 (effectiveKind s.cfg)))
      ∧ s.runCommand 0x4A#8 arg =
        s.setCard (s.card.respond (respFor s.cfg.respCmd10 (effectiveKind s.cfg))) :=
  ⟨congrArg s.setCard (if_pos hcard), congrArg s.setCard (if_pos hcard)⟩

/-- Without a card they begin a zero block (R293). -/
theorem runCommand_register_of_no_card (hcard : s.cfg.cardPresent = false) (arg : BitVec 32) :
    s.runCommand 0x49#8 arg = s.setCard s.card.startDummyRead
      ∧ s.runCommand 0x4A#8 arg = s.setCard s.card.startDummyRead := by
  have hno : ¬(s.cfg.cardPresent = true) := by simp [hcard]
  exact ⟨congrArg s.setCard (if_neg hno), congrArg s.setCard (if_neg hno)⟩

end Commands

/-- Settles O38: each frame runs the command of its byte in the state with the frame buffered. -/
theorem cardStateCommands : Obligations.CardStateCommands := by
  intro s arg c crc x h
  refine ⟨?_, ?_, ?_, ?_, fun hc hsync => ?_⟩
  · obtain ⟨buf, hbuf⟩ : ∃ buf, frameBuffer s.card.cmdBuf ([0xFF#8, 0x40#8] ++ argBytes arg) = buf :=
      ⟨_, rfl⟩
    rw [exec_of_sixByteFrame h rfl (by decide) rfl hbuf rfl, h.1]
    rfl
  · generalize hbuf : frameBuffer _ _ = buf
    exact exec_of_sixByteFrame (c := 0x41#8) h rfl (by decide) rfl hbuf rfl
  · generalize hbuf : frameBuffer _ _ = buf
    exact exec_of_sixByteFrame (c := 0x4C#8) h rfl (by decide) rfl hbuf rfl
  · generalize hbuf : frameBuffer _ _ = buf
    exact exec_of_nineByteFrame (c := 0x50#8) h rfl rfl hbuf rfl
  · generalize hbuf : frameBuffer _ _ = buf
    exact exec_of_sixByteFrame h rfl hsync (frameNeed_unknown hc) hbuf (runCommand_unknown hc _ arg)

/-- Settles O39: each response is the parameter's for the effective kind; the two registers depend on the
card. -/
theorem cardCannedResponses : Obligations.CardCannedResponses := by
  intro s arg crc x h
  refine ⟨?_, ?_, ?_, ?_, fun hcard => ⟨?_, ?_⟩, fun hcard => ⟨?_, ?_⟩⟩
    <;> generalize hbuf : frameBuffer _ _ = buf
  · exact exec_of_nineByteFrame (c := 0x48#8) h rfl rfl hbuf rfl
  · exact exec_of_sixByteFrame (c := 0x69#8) h rfl (by decide) rfl hbuf rfl
  · exact exec_of_sixByteFrame (c := 0x77#8) h rfl (by decide) rfl hbuf rfl
  · exact exec_of_sixByteFrame (c := 0x7A#8) h rfl (by decide) rfl hbuf rfl
  · exact exec_of_nineByteFrame h rfl rfl hbuf
      (runCommand_register_of_card (s := received s buf 9) hcard arg).1
  · exact exec_of_nineByteFrame h rfl rfl hbuf
      (runCommand_register_of_card (s := received s buf 9) hcard arg).2
  · exact exec_of_nineByteFrame h rfl rfl hbuf
      (runCommand_register_of_no_card (s := received s buf 9) hcard arg).1
  · exact exec_of_nineByteFrame h rfl rfl hbuf
      (runCommand_register_of_no_card (s := received s buf 9) hcard arg).2

/-! ## Block commands -/

/-- `mmc_get_addr` of R291 as a number: no bit of the argument is lost. -/
theorem mmcGetAddr_toNat (k : Kind) (arg : BitVec 32) :
    (mmcGetAddr k arg).toNat = if k = .sdhc then arg.toNat * 512 else arg.toNat := by
  have harg := arg.isLt
  have hwide : (arg.zeroExtend 64).toNat = arg.toNat := by
    rw [BitVec.toNat_setWidth]
    omega
  cases k with
  | mmc => exact hwide
  | sd => exact hwide
  | sdhc =>
    simp only [mmcGetAddr, BitVec.toNat_shiftLeft, hwide, Nat.shiftLeft_eq, if_true]
    omega

/-- The target of a block command, as a number and as a cursor. -/
theorem target_eq {k : Kind} {arg : BitVec 32} {a : Nat}
    (ha : a = if k = .sdhc then arg.toNat * 512 else arg.toNat) :
    (mmcGetAddr k arg).toNat = a ∧ mmcGetAddr k arg = BitVec.ofNat 64 a := by
  have hnat : (mmcGetAddr k arg).toNat = a := (mmcGetAddr_toNat k arg).trans ha.symm
  exact ⟨hnat, by rw [← hnat, BitVec.ofNat_toNat, BitVec.setWidth_eq]⟩

theorem seekOk_iff (s : State) (a : Nat) :
    seekOk s a = true ↔ s.ioFail.getD 0 false = false ∧ a ≤ s.cfg.imgLen := by
  simp only [seekOk, headD_eq_getD, Bool.and_eq_true, Bool.not_eq_true', decide_eq_true_eq]

theorem tail_headD_eq_getD (l : List Bool) : l.tail.headD false = l.getD 1 false := by
  rw [headD_eq_getD, List.getD_eq_getElem?_getD, List.getElem?_tail, List.getD_eq_getElem?_getD]

theorem tail_tail_eq_drop (l : List Bool) : l.tail.tail = l.drop 2 := by
  rw [← List.drop_one, ← List.drop_one, List.drop_drop]

theorem readOk_iff (s : State) (a : Nat) :
    readOk s a = true ↔ s.cfg.cardPresent = true ∧ seekOk s a = true
      ∧ s.ioFail.getD 1 false = false ∧ a + s.card.blockSize.toNat ≤ s.cfg.imgLen := by
  simp only [readOk, tail_headD_eq_getD, Bool.and_eq_true, Bool.not_eq_true', decide_eq_true_eq,
    and_assoc]

section Target

variable {s : State} {arg : BitVec 32} {a : Nat}
  (ha : a = if effectiveKind s.cfg = .sdhc then arg.toNat * 512 else arg.toNat)

include ha

theorem cmd24_of_card (hcard : s.cfg.cardPresent = true) :
    s.cmd24 arg =
      { s with
        ioFail := s.ioFail.drop 1
        card := { s.card with
          imageCursor := BitVec.ofNat 64 a
          writePhase := .waitToken
          state := if s.ioFail.getD 0 false = false ∧ a ≤ s.cfg.imgLen then .write
            else .dummyWrite } } := by
  obtain ⟨hnat, hcursor⟩ := target_eq ha
  rw [cmd24_eq, hnat, hcursor]
  simp only [hcard, if_true, Bool.true_and, seekOk_iff, List.drop_one]

theorem cmd24_of_no_card (hcard : s.cfg.cardPresent = false) :
    s.cmd24 arg =
      s.setCard { s.card with
        imageCursor := BitVec.ofNat 64 a, writePhase := .waitToken, state := .dummyWrite } := by
  obtain ⟨-, hcursor⟩ := target_eq ha
  rw [cmd24_eq, hcursor]
  simp only [hcard, Bool.false_and, Bool.false_eq_true, if_false]
  rfl

/-- The block of CMD17 read from the image (R292). -/
theorem cmd17_of_read (hcard : s.cfg.cardPresent = true) (hseek : s.ioFail.getD 0 false = false)
    (hread : s.ioFail.getD 1 false = false) (hfit : a + s.card.blockSize.toNat ≤ s.cfg.imgLen) :
    s.cmd17 arg =
      { s with
        ioFail := s.ioFail.drop 2
        card := { s.card with
          imageCursor := BitVec.ofNat 64 a
          readBuffer := s.image.readRange a s.card.blockSize.toNat
          readPos := 0
          state := .read } } := by
  obtain ⟨hnat, hcursor⟩ := target_eq ha
  have hfound : seekOk s a = true := (seekOk_iff s a).mpr ⟨hseek, Nat.le_of_add_right_le hfit⟩
  have hok : readOk s a = true := (readOk_iff s a).mpr ⟨hcard, hfound, hread, hfit⟩
  rw [cmd17_eq, hnat, hcursor]
  simp only [hcard, hfound, hok, if_true, tail_tail_eq_drop]

/-- The zero block of CMD17, with the answers taken up to the failure (R292). -/
theorem cmd17_of_no_read (hfail : readOk s a = false) :
    s.cmd17 arg =
      { s with
        ioFail :=
          if s.cfg.cardPresent then
            (if seekOk s a then s.ioFail.drop 2 else s.ioFail.drop 1)
          else s.ioFail
        card := { s.card with
          imageCursor := BitVec.ofNat 64 a
          readBuffer := List.replicate s.card.blockSize.toNat 0x00#8
          readPos := 0
          state := .dummyRead } } := by
  obtain ⟨hnat, hcursor⟩ := target_eq ha
  rw [cmd17_eq, hnat, hcursor]
  simp only [hfail, Bool.false_eq_true, if_false, List.drop_one, tail_tail_eq_drop]

theorem cmd17_of_no_card (hcard : s.cfg.cardPresent = false) :
    s.cmd17 arg = s.setCard { s.card with
      imageCursor := BitVec.ofNat 64 a
      readBuffer := List.replicate s.card.blockSize.toNat 0x00#8
      readPos := 0
      state := .dummyRead } := by
  have habsent : ¬(s.cfg.cardPresent = true) := by simp [hcard]
  have hfail : readOk s a = false :=
    Bool.eq_false_iff.mpr fun hok => habsent ((readOk_iff s a).mp hok).1
  rw [cmd17_of_no_read ha hfail, if_neg habsent]
  rfl

theorem cmd17_of_failed_seek (hcard : s.cfg.cardPresent = true)
    (hseek : s.ioFail.getD 0 false = true ∨ s.cfg.imgLen < a) :
    s.cmd17 arg =
      { s with
        ioFail := s.ioFail.drop 1
        card := { s.card with
          imageCursor := BitVec.ofNat 64 a
          readBuffer := List.replicate s.card.blockSize.toNat 0x00#8
          readPos := 0
          state := .dummyRead } } := by
  have hlost : ¬(seekOk s a = true) := by
    rw [seekOk_iff]
    rintro ⟨hfound, hle⟩
    rcases hseek with hanswer | hbeyond
    · rw [hfound] at hanswer
      cases hanswer
    · omega
  have hfail : readOk s a = false :=
    Bool.eq_false_iff.mpr fun hok => hlost ((readOk_iff s a).mp hok).2.1
  rw [cmd17_of_no_read ha hfail, if_pos hcard, if_neg hlost]

/-- A target exactly at the end of the image is here: the seek succeeds and the read does not (log 28). -/
theorem cmd17_of_failed_read (hcard : s.cfg.cardPresent = true)
    (hseek : s.ioFail.getD 0 false = false) (hle : a ≤ s.cfg.imgLen)
    (hread : s.ioFail.getD 1 false = true ∨ s.cfg.imgLen < a + s.card.blockSize.toNat) :
    s.cmd17 arg =
      { s with
        ioFail := s.ioFail.drop 2
        card := { s.card with
          imageCursor := BitVec.ofNat 64 a
          readBuffer := List.replicate s.card.blockSize.toNat 0x00#8
          readPos := 0
          state := .dummyRead } } := by
  have hfail : readOk s a = false := by
    refine Bool.eq_false_iff.mpr fun hok => ?_
    obtain ⟨-, -, hanswer, hfit⟩ := (readOk_iff s a).mp hok
    rcases hread with hfailed | hbeyond
    · rw [hanswer] at hfailed
      cases hfailed
    · omega
  rw [cmd17_of_no_read ha hfail, if_pos hcard, if_pos ((seekOk_iff s a).mpr ⟨hseek, hle⟩)]

end Target

/-- Settles O41: CMD24 takes one answer of the image, that of its seek. -/
theorem cardWriteCommand : Obligations.CardWriteCommand := by
  intro s arg a h ha
  generalize hbuf : frameBuffer _ _ = buf
  exact ⟨fun hcard => exec_of_sixByteFrame (c := 0x58#8) h rfl (by decide) rfl hbuf
      (cmd24_of_card (s := received s buf 6) ha hcard),
    fun hcard => exec_of_sixByteFrame (c := 0x58#8) h rfl (by decide) rfl hbuf
      (cmd24_of_no_card (s := received s buf 6) ha hcard)⟩

/-- Settles O40: the block is read when the card, both answers and the range allow it; each failure takes the
answers up to its own. -/
theorem cardReadBlock : Obligations.CardReadBlock := by
  intro s arg a h ha
  obtain ⟨buf, hbuf⟩ : ∃ buf, frameBuffer s.card.cmdBuf ([0xFF#8, 0x51#8] ++ argBytes arg) = buf :=
    ⟨_, rfl⟩
  have hframe {t : State} (hrun : (received s buf 6).cmd17 arg = t) :
      exec (.sdCmd17 arg) s = .next { t with card := { t.card with cmdIdx := s.card.cmdIdx } } :=
    exec_of_sixByteFrame (c := 0x51#8) h rfl (by decide) rfl hbuf hrun
  refine ⟨buf, _, s.image.readRange a s.card.blockSize.toNat, hbuf.symm, rfl, readRange_length _ _ _,
    fun i hi => readRange_getD _ _ _ i hi _, fun hcard hseek hread hfit => ?_, fun hcard => ?_,
    fun hcard hseek => ?_, fun hcard hseek hle hread => ?_⟩
  · exact hframe (cmd17_of_read (s := received s buf 6) ha hcard hseek hread hfit)
  · exact hframe (cmd17_of_no_card (s := received s buf 6) ha hcard)
  · exact hframe (cmd17_of_failed_seek (s := received s buf 6) ha hcard hseek)
  · exact hframe (cmd17_of_failed_read (s := received s buf 6) ha hcard hseek hle hread)

/-! ## The card's invariant -/

/-- The framer's part of the invariant: the index stays in the buffer, and goes past the fifth byte only for
a nine-byte command (R278, R279). -/
def FramerAgrees (idx : Nat) (cmdByte : Byte) : Prop :=
  idx ≤ 8 ∧ (2 ≤ idx → cmdByte ≠ 0xFF#8) ∧ (6 ≤ idx → frameNeed cmdByte = 9)

/-- The part of the invariant that the card's state speaks of: the response queue, the block being read, the
block being written (R293, R303, R304, R308). -/
def StateAgrees (c : SpiCard) (cfg : Config) : Prop :=
  (c.resp ≠ [] → c.state = .idle)
  ∧ (c.state = .read ∨ c.state = .dummyRead →
      c.readBuffer.length = c.blockSize.toNat ∧ c.readPos < streamLength cfg c.blockSize)
  ∧ (c.writePhase ≠ .waitToken → c.state = .write ∨ c.state = .dummyWrite)
  ∧ dataInBlock c = true

theorem cardInv_iff (c : SpiCard) (cfg : Config) :
    c.Inv cfg ↔ FramerAgrees c.cmdIdx c.cmdBuf[1] ∧ StateAgrees c cfg := by
  simp only [SpiCard.Inv, FramerAgrees, StateAgrees, and_assoc]

theorem framerAgrees_zero (cmdByte : Byte) : FramerAgrees 0 cmdByte :=
  ⟨Nat.zero_le 8, fun h => absurd h (by decide), fun h => absurd h (by decide)⟩

theorem framerAgrees_one (cmdByte : Byte) : FramerAgrees 1 cmdByte :=
  ⟨by decide, fun h => absurd h (by decide), fun h => absurd h (by decide)⟩

/-- A frame short of its command's length agrees (R279). -/
theorem framerAgrees_of_short {idx : Nat} {cmdByte : Byte} (hsync : 2 ≤ idx → cmdByte ≠ 0xFF#8)
    (hshort : ¬(6 ≤ idx ∧ frameNeed cmdByte ≤ idx)) : FramerAgrees idx cmdByte := by
  rcases frameNeed_cases cmdByte with ⟨hneed, -⟩ | ⟨hneed, -⟩ <;> rw [hneed] at hshort
  · exact ⟨by omega, hsync, fun _ => hneed⟩
  · exact ⟨by omega, hsync, by omega⟩

/-- Outside a block write no block is being written. -/
theorem waitToken_of_framing {c : SpiCard} {cfg : Config} (h : StateAgrees c cfg)
    (hw : c.state ≠ .write) (hd : c.state ≠ .dummyWrite) : c.writePhase = .waitToken := by
  obtain ⟨-, -, hphase, -⟩ := h
  by_contra hne
  exact (hphase hne).elim hw hd

section StateAgrees

variable {c : SpiCard} {cfg : Config}

theorem dataInBlock_of_waitToken (h : c.writePhase = .waitToken) : dataInBlock c = true := by
  simp only [dataInBlock, h]

/-- A state that neither reads a stream nor is in the middle of a block. -/
theorem stateAgrees_of_quiet (hphase : c.writePhase = .waitToken)
    (hresp : c.resp ≠ [] → c.state = .idle) (hr : c.state ≠ .read) (hd : c.state ≠ .dummyRead) :
    StateAgrees c cfg :=
  ⟨hresp, fun h => (h.elim hr hd).elim, fun hne => absurd hphase hne, dataInBlock_of_waitToken hphase⟩

/-- A stream that begins with a whole block. -/
theorem stateAgrees_of_stream_start (hphase : c.writePhase = .waitToken) (hresp : c.resp = [])
    (hlen : c.readBuffer.length = c.blockSize.toNat) (hpos : c.readPos = 0) :
    StateAgrees c cfg := by
  refine ⟨fun hne => absurd hresp hne, fun _ => ⟨hlen, ?_⟩, fun hne => absurd hphase hne,
    dataInBlock_of_waitToken hphase⟩
  rw [hpos, streamLength]
  rcases preambleLength_mem cfg.triggerMode with h | h <;> omega

end StateAgrees

/-! ### Commands -/

theorem respond_agrees {c : SpiCard} {cfg : Config} (hphase : c.writePhase = .waitToken)
    (bytes : List Byte) : StateAgrees (c.respond bytes) cfg :=
  stateAgrees_of_quiet hphase (fun _ => rfl) nofun nofun

/-- CMD9 and CMD10: a response or a zero block, as there is a card or not. -/
theorem register_agrees {c : SpiCard} {cfg : Config} (hphase : c.writePhase = .waitToken)
    (hresp : c.resp = []) (bytes : List Byte) :
    StateAgrees (if cfg.cardPresent then c.respond bytes else c.startDummyRead) cfg :=
  either (P := (StateAgrees · cfg)) (respond_agrees hphase bytes)
    (stateAgrees_of_stream_start hphase hresp List.length_replicate rfl)

theorem cmd17_agrees {s : State} (hphase : s.card.writePhase = .waitToken) (hresp : s.card.resp = [])
    (arg : BitVec 32) : StateAgrees (s.cmd17 arg).card s.cfg := by
  rw [cmd17_eq]
  refine stateAgrees_of_stream_start hphase hresp ?_ rfl
  exact either (P := fun block => List.length block = s.card.blockSize.toNat)
    (readRange_length _ _ _) List.length_replicate

theorem cmd24_agrees {s : State} (hresp : s.card.resp = []) (arg : BitVec 32) :
    StateAgrees (s.cmd24 arg).card s.cfg := by
  rw [cmd24_eq]
  refine stateAgrees_of_quiet rfl (fun hne => absurd hresp hne) ?_ ?_
  · exact either (P := (· ≠ CardState.read)) nofun nofun
  · exact either (P := (· ≠ CardState.dummyRead)) nofun nofun

theorem agrees_ite {p : Prop} [Decidable p] {t u : State} {cfg : Config}
    (ht : StateAgrees t.card cfg) (hu : StateAgrees u.card cfg) :
    StateAgrees (if p then t else u).card cfg :=
  either (P := fun v : State => StateAgrees v.card cfg) ht hu

/-- Every command, run between two blocks with no response left, leaves a state that agrees. -/
theorem runCommand_agrees {s : State} (hphase : s.card.writePhase = .waitToken)
    (hresp : s.card.resp = []) (c : Byte) (arg : BitVec 32) :
    StateAgrees (s.runCommand c arg).card s.cfg := by
  refine agrees_ite ?cmd0 <| agrees_ite ?cmd1 <| agrees_ite ?cmd8 <| agrees_ite ?cmd9 <|
    agrees_ite ?cmd10 <| agrees_ite ?cmd12 <| agrees_ite ?cmd16 <| agrees_ite ?cmd17 <|
    agrees_ite ?cmd24 <| agrees_ite ?acmd41 <| agrees_ite ?cmd55 <| agrees_ite ?cmd58 ?unknown
  case cmd0 => exact stateAgrees_of_quiet rfl (fun hne => absurd rfl hne) nofun nofun
  case cmd1 => exact stateAgrees_of_quiet hphase (fun hne => absurd hresp hne) nofun nofun
  case cmd12 | cmd16 | unknown => exact stateAgrees_of_quiet hphase (fun _ => rfl) nofun nofun
  case cmd8 | acmd41 | cmd55 | cmd58 => exact respond_agrees hphase _
  case cmd9 | cmd10 => exact register_agrees hphase hresp _
  case cmd17 => exact cmd17_agrees hphase hresp arg
  case cmd24 => exact cmd24_agrees hresp arg

/-! ### Operations -/

theorem clearCmd_inv {c : SpiCard} {cfg : Config} (h : StateAgrees c cfg) : c.clearCmd.Inv cfg :=
  (cardInv_iff _ _).mpr ⟨framerAgrees_zero _, h⟩

theorem dispatch_inv {s : State} (hphase : s.card.writePhase = .waitToken) :
    s.dispatch.card.Inv s.cfg :=
  clearCmd_inv (runCommand_agrees (s := s.setCard { s.card with resp := [] }) hphase rfl
    s.card.cmdBuf[1] s.card.arg)

/-- A repeated sync byte is not buffered, so no command byte is the sync byte (R278). -/
theorem commandByte_ne_sync {buf : Vector Byte 9} {idx : Nat} {b : Byte} (h0 : idx ≠ 0)
    (h1 : ¬(idx = 1 ∧ b = 0xFF#8)) (hsync : 2 ≤ idx → buf[1] ≠ 0xFF#8) :
    (buf.setIfInBounds idx b)[1] ≠ 0xFF#8 := by
  rw [Vector.getElem_setIfInBounds]
  split_ifs with hone
  · exact fun hb => h1 ⟨hone, hb⟩
  · exact hsync (by omega)

/-- A byte for the framer keeps the invariant, whether it completes a command or not. -/
theorem frameByte_inv {s : State} (h : s.card.Inv s.cfg) (hw : s.card.state ≠ .write)
    (hd : s.card.state ≠ .dummyWrite) (b : Byte) : (s.frameByte b).card.Inv s.cfg := by
  obtain ⟨hframer, hstate⟩ := (cardInv_iff _ _).mp h
  have hphase := waitToken_of_framing hstate hw hd
  simp only [State.frameByte]
  split_ifs with h0 hb h1 hfull
  · exact (cardInv_iff _ _).mpr ⟨framerAgrees_one _, hstate⟩
  · exact h
  · exact h
  · exact dispatch_inv (s := s.setCard _) hphase
  · obtain ⟨-, hsync, -⟩ := hframer
    exact (cardInv_iff _ _).mpr
      ⟨framerAgrees_of_short (fun _ => commandByte_ne_sync h0 h1 hsync) hfull, hstate⟩

/-- No response waits during a block write. -/
theorem resp_of_writing {c : SpiCard} (hstate : c.state = .write ∨ c.state = .dummyWrite)
    (hresp : c.resp ≠ [] → c.state = .idle) : c.resp = [] := by
  by_contra hne
  rw [hresp hne] at hstate
  rcases hstate with h | h <;> cases h

/-- Inside a block write only the phase and the buffered data are left to check. -/
theorem inv_of_writing {c : SpiCard} {cfg : Config} (hstate : c.state = .write ∨ c.state = .dummyWrite)
    (hframer : FramerAgrees c.cmdIdx c.cmdBuf[1]) (hresp : c.resp ≠ [] → c.state = .idle)
    (hdata : dataInBlock c = true) : c.Inv cfg := by
  refine (cardInv_iff c cfg).mpr ⟨hframer, hresp, fun hread => ?_, fun _ => hstate, hdata⟩
  rcases hstate with h | h <;> simp [h] at hread

theorem commitBlock_inv {s : State} (hstate : s.card.state = .write ∨ s.card.state = .dummyWrite)
    (hframer : FramerAgrees s.card.cmdIdx s.card.cmdBuf[1])
    (hresp : s.card.resp ≠ [] → s.card.state = .idle) : s.commitBlock.card.Inv s.cfg := by
  rw [commitBlock_card]
  exact inv_of_writing hstate hframer hresp rfl

theorem dataInBlock_data {c : SpiCard} {k : Nat} (h : c.writePhase = .data k) :
    dataInBlock c = true ↔ k < c.blockSize.toNat ∧ k ≤ c.writeBuffer.length := by
  simp only [dataInBlock, h, Bool.and_eq_true, decide_eq_true_eq]

theorem blockByte_inv {s : State} (h : s.card.Inv s.cfg)
    (hstate : s.card.state = .write ∨ s.card.state = .dummyWrite) (b : Byte) :
    (s.blockByte b).card.Inv s.cfg := by
  obtain ⟨hframer, hresp, hstream, hwriting, hdata⟩ := (cardInv_iff _ _).mp h
  cases hphase : s.card.writePhase with
  | waitToken =>
    rw [blockByte_of_waitToken hphase, State.tokenByte]
    split_ifs with hb hempty
    · exact commitBlock_inv (s := openedBlock s) hstate hframer hresp
    · refine inv_of_writing hstate hframer hresp ((dataInBlock_data rfl).mpr ⟨?_, Nat.zero_le _⟩)
      exact Nat.pos_of_ne_zero fun hzero => hempty (BitVec.eq_of_toNat_eq hzero)
    · exact h
  | data k =>
    obtain ⟨hk, hbuf⟩ := (dataInBlock_data hphase).mp hdata
    rw [blockByte_of_data hphase]
    by_cases hlast : k + 1 = s.card.blockSize.toNat
    · rw [dataByte_last hlast]
      exact commitBlock_inv (s := storedByte s k b) hstate hframer hresp
    · rw [dataByte_inside hlast]
      refine inv_of_writing hstate hframer hresp ((dataInBlock_data rfl).mpr
        ⟨?_, storeAt_length hbuf b⟩)
      exact Nat.lt_of_le_of_ne hk hlast
  | crc j =>
    rw [blockByte_of_crc hphase, State.crcByte]
    split_ifs
    · exact inv_of_writing hstate hframer hresp rfl
    · have hnone := resp_of_writing hstate hresp
      exact (cardInv_iff _ _).mpr
        ⟨hframer, stateAgrees_of_quiet rfl (fun hne => absurd hnone hne) nofun nofun⟩

/-- A byte written to the card keeps the invariant. -/
theorem dataWrite_inv {s : State} (h : s.card.Inv s.cfg) (b : Byte) :
    (s.dataWrite b).card.Inv s.cfg := by
  by_cases hblock : s.card.state = .write ∨ s.card.state = .dummyWrite
  · rw [dataWrite_block hblock]
    exact blockByte_inv h hblock b
  · obtain ⟨hw, hd⟩ := not_or.mp hblock
    rw [dataWrite_frame hw hd]
    exact frameByte_inv h hw hd b

theorem dataWrites_inv {s : State} (h : s.card.Inv s.cfg) (bytes : List Byte) :
    (s.dataWrites bytes).card.Inv s.cfg := by
  induction bytes generalizing s with
  | nil => exact h
  | cons b bytes ih =>
    have hcfg := (dataWrite_same s b).cfg
    have hfirst := dataWrite_inv h b
    rw [← hcfg] at hfirst ⊢
    exact ih hfirst

/-- A status byte read leaves the card idle or in the next reset step. -/
theorem inv_of_status_read {c : SpiCard} {cfg : Config} (h : c.Inv cfg) (hidle : c.state ≠ .idle)
    (hw : c.state ≠ .write) (hd : c.state ≠ .dummyWrite) {q : CardState} (hr : q ≠ .read)
    (hdr : q ≠ .dummyRead) : { c with state := q }.Inv cfg := by
  obtain ⟨hframer, hstate⟩ := (cardInv_iff _ _).mp h
  have hphase := waitToken_of_framing hstate hw hd
  have hresp : c.resp = [] := by
    by_contra hne
    exact hidle (hstate.1 hne)
  exact (cardInv_iff _ _).mpr
    ⟨hframer, stateAgrees_of_quiet hphase (fun hne => absurd hresp hne) hr hdr⟩

theorem afterStream_inv {c : SpiCard} {cfg : Config} (h : c.Inv cfg) :
    (c.afterStream cfg).Inv cfg := by
  obtain ⟨hframer, hresp, hstream, hwriting, hdata⟩ := (cardInv_iff _ _).mp h
  rw [afterStream_eq]
  refine (cardInv_iff _ _).mpr ⟨hframer, hresp, fun hread => ?_, hwriting, hdata⟩
  obtain ⟨hlen, hpos⟩ := hstream hread
  refine ⟨hlen, ?_⟩
  dsimp only
  split_ifs with hnext
  · exact hnext
  · exact hpos

theorem afterIdle_inv {c : SpiCard} {cfg : Config} (h : c.Inv cfg) : c.afterIdle.Inv cfg := by
  obtain ⟨hframer, hresp, hstream, hwriting, hdata⟩ := (cardInv_iff _ _).mp h
  refine (cardInv_iff _ _).mpr ⟨hframer, fun hne => hresp fun hnil => hne ?_, hstream, hwriting, hdata⟩
  rw [SpiCard.afterIdle, hnil, List.tail_nil]

/-- A byte read from the card keeps the invariant. -/
theorem afterRead_inv {c : SpiCard} {cfg : Config} (h : c.Inv cfg) : (c.afterRead cfg).Inv cfg := by
  unfold SpiCard.afterRead
  cases hc : c.state with
  | returnWrite | init =>
    exact inv_of_status_read h (by simp [hc]) (by simp [hc]) (by simp [hc]) nofun nofun
  | reset step =>
    refine inv_of_status_read h (by simp [hc]) (by simp [hc]) (by simp [hc]) ?_ ?_
    · split_ifs <;> nofun
    · split_ifs <;> nofun
  | read | dummyRead => exact afterStream_inv h
  | idle | write | dummyWrite => exact afterIdle_inv h

/-- Every operation keeps the card's invariant. -/
theorem after_card_inv (op : Op) {s : State} (h : s.card.Inv s.cfg) :
    (after op s).card.Inv s.cfg := by
  cases hport : port op with
  | flash =>
    obtain ⟨-, hcard, -⟩ := after_flash_outside hport s
    rwa [hcard]
  | eeprom =>
    obtain ⟨e, out, hframe⟩ := after_eeprom_frame hport s
    rwa [hframe]
  | card =>
    cases op with
    | sdWrite b => exact dataWrite_inv h b
    | sdFrame bytes => exact dataWrites_inv h bytes
    | sdRead => exact afterRead_inv h
    | sdReset => exact cardInv_powerOn s.cfg
    | _ => cases hport

/-- Settles O56: a step is one operation, and every operation keeps the card's invariant. -/
theorem cardInvariantKept : Obligations.CardInvariantKept := by
  intro s t h hstep
  rcases step_next hstep with ⟨-, rfl⟩ | ⟨op, rest, -, -, rfl⟩
  · exact h
  · rw [(after_cfg_inputs op _).1]
    exact after_card_inv op h

end Sys2Proof.Proofs


/-! What stands in the place of exceptions (spec/60_exceptions.md): the precondition of each instruction, the
snapshot taken from one chip and loaded into another, and the gate of the card's image. -/

namespace Sys2Proof.Proofs

open Laws.UnitOfEngine (port)
open Machine Laws

/-! ## The precondition of an instruction -/

/-- The FlashChip address an operation carries on the bus, if it carries one. -/
def busAddr : Op → Option Nat
  | .flRead a | .flWrite a _ _ | .flPeek a => some a
  | .flReset | .flTick | .flExpire | .flSave | .flLoad _ _ | .flClearDirty | .eeSelect _ | .eeClock _
  | .eeData _ | .eeReadData | .eeReset | .eeFrame _ | .sdWrite _ | .sdRead | .sdReset
  | .sdFrame _ => none

/-- The encoding of an instruction carries the instruction's address. -/
theorem busAddr_encode (i : Instr) : busAddr (encode i) = i.flashAddr := by
  cases i <;> rfl

theorem opInRange_of_busAddr {v : Variant} {op : Op} (h : ∀ a, busAddr op = some a → a < v.size) :
    opInRange v op := by
  cases op with
  | flRead a | flWrite a _ _ | flPeek a => exact h a rfl
  | _ => trivial

theorem lt_size_of_addrInRange {v : Variant} {i : Instr} {a : Nat} (h : i.addrInRange v = true)
    (ha : i.flashAddr = some a) : a < v.size := by
  simpa only [Instr.addrInRange, ha, decide_eq_true_eq] using h

/-- An operation that carries an address at or beyond SIZE is refused (20_memory.md R84). -/
theorem perform_refused_of_size_le {op : Op} {s : State} {a : Nat} (hop : busAddr op = some a)
    (ha : s.cfg.variant.size ≤ a) : perform op s = .refused (.flashAddressOutOfRange a) := by
  cases op with
  | flRead | flPeek =>
    cases hop
    exact atFlash_of_le ha _
  | flWrite _ _ rmw =>
    cases hop
    cases rmw
    · exact atFlash_of_le ha _
    · exact atFlash_of_le ha _
  | _ => cases hop

/-- Settles O17: an instruction means what its encoding means, and the encoding has a step exactly when the
address it carries, if any, is one of the chip. -/
theorem completesInsideThePrecondition : Obligations.CompletesInsideThePrecondition := by
  intro i s
  simp only [exec_eq_perform, ← busAddr_encode]
  refine ⟨fun hrange => ⟨after (encode i) s, perform_of_inRange (opInRange_of_busAddr ?_)⟩,
    fun a => perform_refused_of_size_le⟩
  intro a haddr
  exact lt_size_of_addrInRange hrange ((busAddr_encode i).symm.trans haddr)

/-! ## The snapshot taken from one chip and loaded into another -/

theorem stateOfCode_stateCode (q : FlashState) : stateOfCode (stateCode q) = some q := by
  cases q <;> rfl

/-- The eight bytes cut from a sector set assemble to it again, from the top byte down. -/
theorem pendingOfBytes_extract (p : BitVec 64) :
    pendingOfBytes (p.extractLsb' 0 8) (p.extractLsb' 8 8) (p.extractLsb' 16 8) (p.extractLsb' 24 8)
      (p.extractLsb' 32 8) (p.extractLsb' 40 8) (p.extractLsb' 48 8) (p.extractLsb' 56 8) = p := by
  have hjoin (k n : Nat) : p.extractLsb' (k + 8) n ++ p.extractLsb' k 8 = p.extractLsb' k (n + 8) :=
    BitVec.extractLsb'_append_extractLsb'_eq_extractLsb' rfl
  rw [pendingOfBytes, hjoin 48, hjoin 40, hjoin 32, hjoin 24, hjoin 16, hjoin 8, hjoin 0]
  exact BitVec.extractLsb'_eq_self

/-- A canonical array inside the chip is the array of the chip's bytes. -/
theorem ofBytes_readRange {m : Memory} {size : Nat} (h : Canonical m size) :
    Memory.ofBytes 0 (m.readRange 0 size) = m := by
  obtain ⟨hwf, hbelow⟩ := h
  refine eq_of_read_eq (ofBytes_wf _ _) hwf fun x => ?_
  rw [read_ofBytes, readRange_length]
  split_ifs with hx
  · rw [readRange_getD _ _ _ _ (by omega), Nat.zero_add, Nat.sub_zero]
  · refine (read_of_forall_ne fun c hc => ?_).symm
    have hlt := below_iff.mp hbelow c hc
    omega

/-- The timer after a load, as 60_exceptions.md R349 gives it for the state loaded. -/
def loadedTimer (c : Config) (clk : Nat) (q : FlashState) : Option Nat :=
  if q = .chipErase then some (clk + c.tChipErase)
  else if q = .sectorErase then some (clk + c.tSectorErase)
  else if q = .sectorEraseTimeout then some (clk + c.tSectorTimeout)
  else none

theorem armLoaded_eq (f : FlashChip) (c : Config) (clk : Nat) :
    f.armLoaded c clk = { f with eraseTimer := loadedTimer c clk f.seq } := by
  obtain ⟨_, seq, _, _, _, _, _, _⟩ := f
  cases seq <;> rfl

/-- A load of what a chip saved assigns every field: the saved ones, `dirty` and the timer. -/
theorem load_snapshotBytes (f g : FlashChip) {c : Config} (clk : Nat)
    (h : Canonical g.data c.variant.size) :
    f.load c clk (g.snapshotBytes c.variant) =
      some { g with dirty := true, eraseTimer := loadedTimer c clk g.seq } := by
  simp only [FlashChip.snapshotBytes, pendingBytes, List.cons_append, List.nil_append,
    FlashChip.load, readRange_length, if_true, stateOfCode_stateCode, pendingOfBytes_extract,
    ofBytes_readRange h, armLoaded_eq]

/-- Settles O26: the two chips have one configuration, so the version and the length agree. -/
theorem snapshotRoundTrip : Obligations.SnapshotRoundTrip := by
  intro s u hcfg hwf hbelow
  refine ⟨s.flash.snapshotBytes s.cfg.variant, rfl, congrArg Host.Outcome.next ?_⟩
  have hload := load_snapshotBytes u.flash s.flash u.clk ⟨hwf, hbelow⟩
  rw [← hcfg] at hload ⊢
  simp only [State.snapshotLoad, if_true, hload]
  rfl

/-! ## The gate of the card's image -/

/-- A data byte stored at an index of the buffer, padded or not, lies in it (log 18). -/
theorem lt_length_storeAt (l : List Byte) (k : Nat) (b : Byte) : k < (storeAt l k b).length := by
  unfold storeAt
  split_ifs with hk
  · rwa [List.length_set]
  · simp only [List.length_append, List.length_replicate, List.length_singleton]
    omega

/-- The image changes by a commit only in `Write` with a card, and only where the bytes committed lie in it. -/
theorem commitBlock_image_gate {s : State} (h : s.commitBlock.image ≠ s.image) :
    s.card.state = .write ∧ s.cfg.cardPresent = true
      ∧ s.card.imageCursor.toNat
        + (s.card.writeBuffer.take s.card.blockSize.toNat).length ≤ s.cfg.imgLen := by
  obtain ⟨io, ok, hcommit, hok⟩ := commitBlock_eq s
  cases ok
  · exact absurd (congrArg State.image hcommit) h
  · exact hok rfl

/-- No byte received while the token is awaited changes the image: the block it can commit is empty. -/
theorem tokenByte_image (s : State) (b : Byte) : (s.tokenByte b).image = s.image := by
  by_cases hb : b = 0xFE#8
  · rw [hb, tokenByte_token]
  · rw [State.tokenByte, if_neg hb]

theorem crcByte_image (s : State) (j : Fin 2) : (s.crcByte j).image = s.image := by
  unfold State.crcByte
  split_ifs
  · rfl
  · rfl

/-- What has to hold before the card's image can change at a byte (R338 (c)). -/
def ImageGate (s : State) : Prop :=
  (∃ k, s.card.writePhase = .data k ∧ k + 1 = s.card.blockSize.toNat)
  ∧ s.card.state = .write ∧ s.cfg.cardPresent = true
  ∧ s.card.imageCursor.toNat + s.card.blockSize.toNat ≤ s.cfg.imgLen

/-- A data byte that changes the image is the block's last one, so the whole block is committed. -/
theorem imageGate_of_dataByte {s : State} {k : Nat} {b : Byte} (hphase : s.card.writePhase = .data k)
    (h : (s.dataByte k b).image ≠ s.image) : ImageGate s := by
  by_cases hlast : k + 1 = s.card.blockSize.toNat
  · rw [dataByte_last hlast] at h
    obtain ⟨hstate, hcard, hfit⟩ := commitBlock_image_gate (s := storedByte s k b) h
    have hwhole : ((storeAt s.card.writeBuffer k b).take s.card.blockSize.toNat).length
        = s.card.blockSize.toNat :=
      List.length_take_of_le (hlast ▸ lt_length_storeAt s.card.writeBuffer k b)
    exact ⟨⟨k, hphase, hlast⟩, hstate, hcard, hwhole ▸ hfit⟩
  · exact absurd (congrArg State.image (dataByte_inside hlast b)) h

theorem imageGate_of_blockByte {s : State} {b : Byte} (h : (s.blockByte b).image ≠ s.image) :
    ImageGate s := by
  cases hphase : s.card.writePhase with
  | waitToken =>
    rw [blockByte_of_waitToken hphase] at h
    exact absurd (tokenByte_image s b) h
  | data k =>
    rw [blockByte_of_data hphase] at h
    exact imageGate_of_dataByte hphase h
  | crc j =>
    rw [blockByte_of_crc hphase] at h
    exact absurd (crcByte_image s j) h

theorem imageGate_of_dataWrite {s : State} {b : Byte} (h : (s.dataWrite b).image ≠ s.image) :
    ImageGate s := by
  by_cases hblock : s.card.state = .write ∨ s.card.state = .dummyWrite
  · rw [dataWrite_block hblock] at h
    exact imageGate_of_blockByte h
  · obtain ⟨hw, hd⟩ := not_or.mp hblock
    rw [dataWrite_frame hw hd] at h
    obtain ⟨-, himage⟩ := frameByte_same s b
    exact absurd himage h

/-- Only a byte written to the card, alone or in a frame, can change the card's image. -/
theorem after_image_of_not_write {op : Op} (hbyte : ∀ b, op ≠ .sdWrite b)
    (hframe : ∀ bytes, op ≠ .sdFrame bytes) (s : State) : (after op s).image = s.image := by
  cases hport : port op with
  | flash =>
    obtain ⟨-, -, himage, -⟩ := after_flash_outside hport s
    exact himage
  | eeprom =>
    obtain ⟨e, out, hafter⟩ := after_eeprom_frame hport s
    rw [hafter]
  | card =>
    cases op with
    | sdWrite b => exact absurd rfl (hbyte b)
    | sdFrame bytes => exact absurd rfl (hframe bytes)
    | sdRead | sdReset => rfl
    | _ => cases hport

/-- Settles O47: the operation is a byte written to the card, and the byte met the image's gate. -/
theorem cardImageGate : Obligations.CardImageGate := by
  intro op s t hframe hop hchange
  obtain ⟨-, rfl⟩ := perform_next hop
  by_cases hbyte : ∃ b, op = .sdWrite b
  · obtain ⟨b, rfl⟩ := hbyte
    obtain ⟨⟨k, hphase, hlast⟩, hgate⟩ := imageGate_of_dataWrite hchange
    exact ⟨⟨b, k, rfl, hphase, hlast⟩, hgate⟩
  · exact absurd (after_image_of_not_write (not_exists.mp hbyte) hframe s) hchange

end Sys2Proof.Proofs


/-! The resets of the three engines (spec/70_reset_and_hazards.md, section 2): each row puts the engine's
`reset()` in the engine's place and writes nothing else. -/

namespace Sys2Proof.Proofs

open Machine Laws

/-! ## The reset rows -/

theorem exec_flHwReset (s : State) : exec .flHwReset s = .next (s.setFlash s.flash.hwReset) :=
  exec_eq_perform .flHwReset s

theorem exec_eeReset (s : State) : exec .eeReset s = .next (s.setEeprom s.eeprom.reset) :=
  exec_eq_perform .eeReset s

theorem exec_sdReset (s : State) : exec .sdReset s = .next (s.setCard SpiCard.powerOn) :=
  exec_eq_perform .sdReset s

/-! ## A second reset of the flash chip -/

@[simp] theorem setFlash_setFlash (s : State) (f g : FlashChip) :
    (s.setFlash f).setFlash g = s.setFlash g := rfl

/-- 70_reset_and_hazards.md R363: each field is either kept or set to a constant. -/
@[simp] theorem hwReset_hwReset (f : FlashChip) : f.hwReset.hwReset = f.hwReset := rfl

theorem exec_flHwReset_of_reset (s : State) :
    exec .flHwReset (s.setFlash s.flash.hwReset) = .next (s.setFlash s.flash.hwReset) := by
  rw [exec_flHwReset, setFlash_flash, hwReset_hwReset, setFlash_setFlash]

/-! ## The statements -/

/-- Settles O18: the record update named there is the chip's `reset()`, which is idempotent. -/
theorem flashReset : Obligations.FlashReset := by
  intro s
  exact ⟨s.setFlash s.flash.hwReset, rfl, exec_flHwReset s, exec_flHwReset_of_reset s⟩

/-- Settles O46: the EEPROM's `reset()` is a record update of the engine, the card's is its power-on state. -/
theorem serialEngineResets : Obligations.SerialEngineResets := by
  intro s
  exact ⟨exec_eeReset s, exec_sdReset s⟩

end Sys2Proof.Proofs
